-- ==== Sys2Proof/Word.lean ====
section
/-! DEFINITION. The word types of the machine (spec/10_state.md, spec/30_encoding.md rule R62): bytes, the 16-bit words of
`I`, `pc`, the stack slots and the instruction word, and the 12-bit address field. All values are unsigned (rule R5). -/

namespace Sys2Proof

/-- One byte: a memory cell, a general register, a timer (rules R10, R12, R20). -/
abbrev Byte := BitVec 8

/-- A 16-bit word: `I`, `pc`, a stack slot, an instruction word (rules R15, R16, R18, R60). -/
abbrev Word := BitVec 16

/-- The 12-bit address field `nnn` of an instruction (rule R62). -/
abbrev Addr := BitVec 12

end Sys2Proof
end

