-- ==== Sys2Proof/Config.lean ====
section
/-! DEFINITION. The parameters of the block (spec/00_scope.md rule R3) as a record of plain data, the host's fault policy, and
the one free value, the random byte. The record's default value, `defaultConfig`, stands in Sys2Proof/Machine/Params.lean. -/

namespace Sys2Proof

/-- `DRAW_FLAG`: which transition of a cell makes draw set `VF` (rule R153, decision D13). -/
inductive DrawFlag where
  /-- a cell going from off to on: the default, the source's words -/
  | offToOn
  /-- a cell going from on to off: the parameter's other value -/
  | onToOff
  deriving DecidableEq, Repr

/-- `ON_FAULT`: what the host does after a fault; not a property of the block (rule R175, decision D17). -/
inductive OnFault where
  | halt
  | reset
  | ignore
  deriving DecidableEq, Repr

/-- The `FONT` parameter: 80 bytes, 16 glyphs of 5 bytes (rules R10, R44). -/
abbrev Font := Vector Byte 80

/-- The parameters that rule R3 gives the block. They are fixed for a machine: no step changes them. -/
structure Config where
  /-- `CLOCK_HZ`, instruction slices per second (rule R3) -/
  clockHz : Nat
  /-- `DRAW_FLAG` (rule R153) -/
  drawFlag : DrawFlag
  /-- `RESET_PC` (rule R202) -/
  resetPc : Word
  /-- `FONT` (rule R44) -/
  font : Font
  deriving DecidableEq, Repr

/-- What rule R3 asks of the parameters: `CLOCK_HZ` is at least 60 (rule R181). -/
def Config.valid (c : Config) : Bool := decide (60 ≤ c.clockHz)

/-- `RAND` / `rand8()`: a FREE VALUE (rules R3, R6, R132, decision D14). The k-th execution of rand draws the byte
`Config.rand8 k`, about which nothing can be proved; State's field `draws` counts the executions. Log entry 3. -/
opaque Config.rand8 : Nat → Byte

end Sys2Proof
end

