-- ==== Sys2Proof/Machine/Flags.lean ====
section
/-! DEFINITION. The value each of the six flag-writing instructions puts into `VF` (spec/10_state.md rule R14): always the
byte 0x00 or 0x01. -/

namespace Sys2Proof.Machine

/-- The byte 0x01 or 0x00 ("always fully overwritten (0 or 1)", rule R14). -/
def flagByte (b : Bool) : Byte := if b then 0x01#8 else 0x00#8

/-- add: 1 if the unsigned sum exceeds 255 (rule R126). -/
def addFlag (a b : Byte) : Byte := flagByte (decide (255 < a.toNat + b.toNat))

/-- sub on `a - b`, and subn with its operands exchanged: 1 if `a > b`, strictly (rules R127, R128; conflict C5). -/
def subFlag (a b : Byte) : Byte := flagByte (decide (b.toNat < a.toNat))

/-- shift-right: bit 0 before the shift (rule R129). -/
def shiftRightFlag (a : Byte) : Byte := flagByte (a.getLsbD 0)

/-- shift-left: bit 7 before the shift (rule R130). -/
def shiftLeftFlag (a : Byte) : Byte := flagByte (a.getLsbD 7)

/-- draw: does flipping a cell that was `old` set the flag (rules R150, R153)? -/
def drawFlagFires (d : DrawFlag) (old : Bool) : Bool :=
  match d with
  | .offToOn => !old
  | .onToOff => old

end Sys2Proof.Machine
end

