-- ==== Sys2Proof/Syntax.lean ====
section
/-! DEFINITION. The instruction set as syntax: one constructor of `Instr` for each of the 35 rows of
spec/opcode_table.json (spec/30_encoding.md rules R70 and R75), in the table's order, with the operands the table gives it. -/

namespace Sys2Proof

/-- A general register number 0 to 15, as the fields `x` and `y` name it (rules R12, R64). -/
abbrev Reg := Fin 16

/-- The number of the flag register `VF` = `V[15]` (rules R3 `FLAG_REG`, R14). -/
abbrev Reg.VF : Reg := 15

/-- The instructions. `x`, `y` name registers, `nn` is the immediate byte, `nnn` the 12-bit address, `n` draw's row count
(rules R61, R62, R64). Bits the decoder ignores (rules R72, R73) are no operands. -/
inductive Instr where
  /-- `00E0` clear (rule R100) -/
  | clear
  /-- `00EE` return (rule R101) -/
  | ret
  /-- `0nnn`, other than the two above: sys nnn (rule R102) -/
  | sys (nnn : Addr)
  /-- `1nnn` jump nnn (rule R103) -/
  | jump (nnn : Addr)
  /-- `2nnn` call nnn (rule R104) -/
  | call (nnn : Addr)
  /-- `3xnn` skip-eq-byte x,nn (rule R110) -/
  | skipEqByte (x : Reg) (nn : Byte)
  /-- `4xnn` skip-neq-byte x,nn (rule R111) -/
  | skipNeqByte (x : Reg) (nn : Byte)
  /-- `5xy-` skip-eq x,y (rule R112) -/
  | skipEq (x y : Reg)
  /-- `6xnn` set-byte x,nn (rule R120) -/
  | setByte (x : Reg) (nn : Byte)
  /-- `7xnn` add-byte x,nn (rule R121) -/
  | addByte (x : Reg) (nn : Byte)
  /-- `8xy0` set x,y (rule R122) -/
  | setReg (x y : Reg)
  /-- `8xy1` or x,y (rule R123) -/
  | or (x y : Reg)
  /-- `8xy2` and x,y (rule R124) -/
  | and (x y : Reg)
  /-- `8xy3` xor x,y (rule R125) -/
  | xor (x y : Reg)
  /-- `8xy4` add x,y (rule R126) -/
  | add (x y : Reg)
  /-- `8xy5` sub x,y (rule R127) -/
  | sub (x y : Reg)
  /-- `8x-6` shift-right x (rule R129) -/
  | shiftRight (x : Reg)
  /-- `8xy7` subn x,y (rule R128) -/
  | subn (x y : Reg)
  /-- `8x-E` shift-left x (rule R130) -/
  | shiftLeft (x : Reg)
  /-- `9xy-` skip-neq x,y (rule R113) -/
  | skipNeq (x y : Reg)
  /-- `Annn` set-index nnn (rule R140) -/
  | setIndex (nnn : Addr)
  /-- `Bnnn` jump-v0 nnn (rule R105) -/
  | jumpV0 (nnn : Addr)
  /-- `Cxnn` rand x,nn (rule R132) -/
  | rand (x : Reg) (nn : Byte)
  /-- `Dxyn` draw x,y,n (rule R150) -/
  | draw (x y : Reg) (n : Fin 16)
  /-- `Ex9E` skip-pressed x (rule R114) -/
  | skipPressed (x : Reg)
  /-- `ExA1` skip-not-pressed x (rule R115) -/
  | skipNotPressed (x : Reg)
  /-- `Fx07` get-delay x (rule R160) -/
  | getDelay (x : Reg)
  /-- `Fx0A` await-key x (rule R163) -/
  | awaitKey (x : Reg)
  /-- `Fx15` set-delay x (rule R161) -/
  | setDelay (x : Reg)
  /-- `Fx18` set-sound x (rule R162) -/
  | setSound (x : Reg)
  /-- `Fx1E` add-index x (rule R141) -/
  | addIndex (x : Reg)
  /-- `Fx29` set-char x (rule R142) -/
  | setChar (x : Reg)
  /-- `Fx33` store-bcd x (rule R143) -/
  | storeBcd (x : Reg)
  /-- `Fx55` store-regs x (rule R144) -/
  | storeRegs (x : Reg)
  /-- `Fx65` load-regs x (rule R145) -/
  | loadRegs (x : Reg)
  deriving DecidableEq, Repr

end Sys2Proof
end

