-- ==== Sys2Proof/WellFormed.lean ====
section
/-! DEFINITION. Well-formed instructions. The operand types already bound every field (a register number is a `Fin 16`, `nnn`
has 12 bits, `nn` 8, `n` is a `Fin 16`), so one check is left: sys is what remains of family 0x0 after clear and return
(spec/30_encoding.md rules R69, R70; the table's `except` list). -/

namespace Sys2Proof

/-- The payload of a sys instruction is neither clear's 0x0E0 nor return's 0x0EE (rules R69, R102). -/
def sysPayloadOk (nnn : Addr) : Bool := nnn != 0x0E0#12 && nnn != 0x0EE#12

/-- The instruction has a word of its own (rule R70). -/
def Instr.wellFormed : Instr → Bool
  | .clear => true
  | .ret => true
  | .sys nnn => sysPayloadOk nnn
  | .jump _ => true
  | .call _ => true
  | .skipEqByte _ _ => true
  | .skipNeqByte _ _ => true
  | .skipEq _ _ => true
  | .setByte _ _ => true
  | .addByte _ _ => true
  | .setReg _ _ => true
  | .or _ _ => true
  | .and _ _ => true
  | .xor _ _ => true
  | .add _ _ => true
  | .sub _ _ => true
  | .shiftRight _ => true
  | .subn _ _ => true
  | .shiftLeft _ => true
  | .skipNeq _ _ => true
  | .setIndex _ => true
  | .jumpV0 _ => true
  | .rand _ _ => true
  | .draw _ _ _ => true
  | .skipPressed _ => true
  | .skipNotPressed _ => true
  | .getDelay _ => true
  | .awaitKey _ => true
  | .setDelay _ => true
  | .setSound _ => true
  | .addIndex _ => true
  | .setChar _ => true
  | .storeBcd _ => true
  | .storeRegs _ => true
  | .loadRegs _ => true

end Sys2Proof
end

