-- ==== Sys2Proof/Decode.lean ====
section
/-! DEFINITION. The decoder and the encoder (spec/30_encoding.md). `views` is the stateless field extraction of rule R62,
`decodeWord` the two-level dispatch of rules R67 to R70, `decode` reads an instruction from any list of bytes, `encode` writes
the canonical word of an instruction. `opcodeTable` is the map of rule R70 as rows of match and mask, kept beside the
dispatcher so that the two transcriptions can be held against each other. -/

namespace Sys2Proof

/-- Why bytes are no instruction. -/
inductive DecodeError where
  /-- fewer than the two bytes of an instruction (rule R60) -/
  | truncated
  /-- an undefined selector of family 0x8, 0xE or 0xF (rule R69) -/
  | illegal (w : Word)
  deriving DecidableEq, Repr

/-- The six views of an instruction word (rule R62; conflict C9). -/
structure Views where
  /-- `bits`, the full word -/
  bits : Word
  /-- `nnn` = `w[11:0]` -/
  nnn : Addr
  /-- `n` = `w[3:0]` -/
  n : Fin 16
  /-- `x` = `w[11:8]` (conflict C10) -/
  x : Reg
  /-- `y` = `w[7:4]` -/
  y : Reg
  /-- `nn` = `w[7:0]` -/
  nn : Byte
  deriving DecidableEq, Repr

/-- The nibble of `w` whose lowest bit is bit `lo`. -/
def nibbleAt (w : Word) (lo : Nat) : Fin 16 := ⟨(w.extractLsb' lo 4).toNat, (w.extractLsb' lo 4).isLt⟩

/-- The instruction decoder: pure, stateless, total on all words (rules R62, R63). -/
def views (w : Word) : Views where
  bits := w
  nnn := w.extractLsb' 0 12
  n := nibbleAt w 0
  x := nibbleAt w 8
  y := nibbleAt w 4
  nn := w.extractLsb' 0 8

/-- The family nibble `f` = `w[15:12]`, taken by the controller from `bits` (rules R62, R67). -/
def family (w : Word) : Nat := (nibbleAt w 12).val

/-- Second level of family 0x0: the whole payload `nnn` selects (rule R68). -/
def decodeFamily0 (v : Views) : Instr :=
  if v.nnn = 0x0E0#12 then .clear
  else if v.nnn = 0x0EE#12 then .ret
  else .sys v.nnn

/-- Second level of family 0x8: the nibble `n` selects (rule R68). The shifts ignore `y` (rule R73). -/
def decodeFamily8 (v : Views) : Except DecodeError Instr :=
  match v.n.val with
  | 0x0 => .ok (.setReg v.x v.y)
  | 0x1 => .ok (.or v.x v.y)
  | 0x2 => .ok (.and v.x v.y)
  | 0x3 => .ok (.xor v.x v.y)
  | 0x4 => .ok (.add v.x v.y)
  | 0x5 => .ok (.sub v.x v.y)
  | 0x6 => .ok (.shiftRight v.x)
  | 0x7 => .ok (.subn v.x v.y)
  | 0xE => .ok (.shiftLeft v.x)
  | _ => .error (.illegal v.bits)

/-- Second level of family 0xE: the byte `nn` selects (rule R68). -/
def decodeFamilyE (v : Views) : Except DecodeError Instr :=
  if v.nn = 0x9E#8 then .ok (.skipPressed v.x)
  else if v.nn = 0xA1#8 then .ok (.skipNotPressed v.x)
  else .error (.illegal v.bits)

/-- Second level of family 0xF: the byte `nn` selects (rule R68). -/
def decodeFamilyF (v : Views) : Except DecodeError Instr :=
  if v.nn = 0x07#8 then .ok (.getDelay v.x)
  else if v.nn = 0x0A#8 then .ok (.awaitKey v.x)
  else if v.nn = 0x15#8 then .ok (.setDelay v.x)
  else if v.nn = 0x18#8 then .ok (.setSound v.x)
  else if v.nn = 0x1E#8 then .ok (.addIndex v.x)
  else if v.nn = 0x29#8 then .ok (.setChar v.x)
  else if v.nn = 0x33#8 then .ok (.storeBcd v.x)
  else if v.nn = 0x55#8 then .ok (.storeRegs v.x)
  else if v.nn = 0x65#8 then .ok (.loadRegs v.x)
  else .error (.illegal v.bits)

/-- The dispatcher: first on the family nibble, then on the selector (rules R67 to R70). Families 0x5 and 0x9 do not look at
`n` (rule R72). The last arm is the Illegal arm of rule R69, which no word reaches (conflict C11). -/
def decodeWord (w : Word) : Except DecodeError Instr :=
  match family w with
  | 0x0 => .ok (decodeFamily0 (views w))
  | 0x1 => .ok (.jump (views w).nnn)
  | 0x2 => .ok (.call (views w).nnn)
  | 0x3 => .ok (.skipEqByte (views w).x (views w).nn)
  | 0x4 => .ok (.skipNeqByte (views w).x (views w).nn)
  | 0x5 => .ok (.skipEq (views w).x (views w).y)
  | 0x6 => .ok (.setByte (views w).x (views w).nn)
  | 0x7 => .ok (.addByte (views w).x (views w).nn)
  | 0x8 => decodeFamily8 (views w)
  | 0x9 => .ok (.skipNeq (views w).x (views w).y)
  | 0xA => .ok (.setIndex (views w).nnn)
  | 0xB => .ok (.jumpV0 (views w).nnn)
  | 0xC => .ok (.rand (views w).x (views w).nn)
  | 0xD => .ok (.draw (views w).x (views w).y (views w).n)
  | 0xE => decodeFamilyE (views w)
  | 0xF => decodeFamilyF (views w)
  | _ => .error (.illegal w)

/-- The big-endian word of two bytes: the byte at the lower address is the high byte (rule R45). -/
def wordOfBytes (hi lo : Byte) : Word := hi ++ lo

/-- The high byte of a word: the one stored at the lower address (rule R45). -/
def hiByte (w : Word) : Byte := w.extractLsb' 8 8

/-- The low byte of a word: the one stored at the higher address (rule R45). -/
def loByte (w : Word) : Byte := w.extractLsb' 0 8

/-- Read one instruction from the front of any list of bytes: the instruction and the bytes after it (rules R45, R60). -/
def decode : List Byte → Except DecodeError (Instr × List Byte)
  | hi :: lo :: rest => (decodeWord (wordOfBytes hi lo)).map (fun i => (i, rest))
  | _ => .error .truncated

/-! ### The encoder -/

/-- A word of a family nibble and the 12-bit address field (format NNN, rule R61). -/
def formNNN (f : Nat) (nnn : Addr) : Word := BitVec.ofNat 16 (f * 4096 + nnn.toNat)

/-- A word of a family nibble, a register and the immediate or selector byte (formats XNN and XSS, rule R61). -/
def formXNN (f : Nat) (x : Reg) (nn : Byte) : Word := BitVec.ofNat 16 (f * 4096 + x.val * 256 + nn.toNat)

/-- A word of a family nibble, two registers and the low nibble (formats XY_, XYS and XYN, rule R61). -/
def formXYN (f : Nat) (x y : Reg) (n : Fin 16) : Word := BitVec.ofNat 16 (f * 4096 + x.val * 256 + y.val * 16 + n.val)

/-- The canonical word of an instruction (rule R70). Ignored bits are written 0: `n` of 5xy- and 9xy- (rule R72), `y` of the
shifts (log entry 8). -/
def encode : Instr → Word
  | .clear => 0x00E0#16
  | .ret => 0x00EE#16
  | .sys nnn => formNNN 0x0 nnn
  | .jump nnn => formNNN 0x1 nnn
  | .call nnn => formNNN 0x2 nnn
  | .skipEqByte x nn => formXNN 0x3 x nn
  | .skipNeqByte x nn => formXNN 0x4 x nn
  | .skipEq x y => formXYN 0x5 x y 0
  | .setByte x nn => formXNN 0x6 x nn
  | .addByte x nn => formXNN 0x7 x nn
  | .setReg x y => formXYN 0x8 x y 0x0
  | .or x y => formXYN 0x8 x y 0x1
  | .and x y => formXYN 0x8 x y 0x2
  | .xor x y => formXYN 0x8 x y 0x3
  | .add x y => formXYN 0x8 x y 0x4
  | .sub x y => formXYN 0x8 x y 0x5
  | .shiftRight x => formXYN 0x8 x 0 0x6
  | .subn x y => formXYN 0x8 x y 0x7
  | .shiftLeft x => formXYN 0x8 x 0 0xE
  | .skipNeq x y => formXYN 0x9 x y 0
  | .setIndex nnn => formNNN 0xA nnn
  | .jumpV0 nnn => formNNN 0xB nnn
  | .rand x nn => formXNN 0xC x nn
  | .draw x y n => formXYN 0xD x y n
  | .skipPressed x => formXNN 0xE x 0x9E#8
  | .skipNotPressed x => formXNN 0xE x 0xA1#8
  | .getDelay x => formXNN 0xF x 0x07#8
  | .awaitKey x => formXNN 0xF x 0x0A#8
  | .setDelay x => formXNN 0xF x 0x15#8
  | .setSound x => formXNN 0xF x 0x18#8
  | .addIndex x => formXNN 0xF x 0x1E#8
  | .setChar x => formXNN 0xF x 0x29#8
  | .storeBcd x => formXNN 0xF x 0x33#8
  | .storeRegs x => formXNN 0xF x 0x55#8
  | .loadRegs x => formXNN 0xF x 0x65#8

/-- The two bytes of an instruction in the order they stand in memory (rules R45, R60). -/
def encodeBytes (i : Instr) : List Byte := [hiByte (encode i), loByte (encode i)]

/-! ### The opcode map as a table -/

/-- One row of the opcode map: a word is in the row when `w & mask = pattern` (rule R70). -/
structure OpcodeRow where
  pattern : Word
  mask : Word
  deriving DecidableEq, Repr

/-- The match of a word against a row (rule R70: "A word matches a row when `(w & mask) = match`"). -/
def OpcodeRow.covers (r : OpcodeRow) (w : Word) : Bool := (w &&& r.mask) == r.pattern

/-- Families 0x0 to 0x7 of the map, in the order of rule R70 (sys after clear and return). -/
def opcodeRowsLow : List OpcodeRow :=
  [⟨0x00E0#16, 0xFFFF#16⟩, ⟨0x00EE#16, 0xFFFF#16⟩, ⟨0x0000#16, 0xF000#16⟩, ⟨0x1000#16, 0xF000#16⟩, ⟨0x2000#16, 0xF000#16⟩,
   ⟨0x3000#16, 0xF000#16⟩, ⟨0x4000#16, 0xF000#16⟩, ⟨0x5000#16, 0xF000#16⟩, ⟨0x6000#16, 0xF000#16⟩, ⟨0x7000#16, 0xF000#16⟩]

/-- Family 0x8 of the map. -/
def opcodeRowsAlu : List OpcodeRow :=
  [⟨0x8000#16, 0xF00F#16⟩, ⟨0x8001#16, 0xF00F#16⟩, ⟨0x8002#16, 0xF00F#16⟩, ⟨0x8003#16, 0xF00F#16⟩, ⟨0x8004#16, 0xF00F#16⟩,
   ⟨0x8005#16, 0xF00F#16⟩, ⟨0x8006#16, 0xF00F#16⟩, ⟨0x8007#16, 0xF00F#16⟩, ⟨0x800E#16, 0xF00F#16⟩]

/-- Families 0x9 to 0xF of the map. -/
def opcodeRowsHigh : List OpcodeRow :=
  [⟨0x9000#16, 0xF000#16⟩, ⟨0xA000#16, 0xF000#16⟩, ⟨0xB000#16, 0xF000#16⟩, ⟨0xC000#16, 0xF000#16⟩, ⟨0xD000#16, 0xF000#16⟩,
   ⟨0xE09E#16, 0xF0FF#16⟩, ⟨0xE0A1#16, 0xF0FF#16⟩, ⟨0xF007#16, 0xF0FF#16⟩, ⟨0xF00A#16, 0xF0FF#16⟩, ⟨0xF015#16, 0xF0FF#16⟩,
   ⟨0xF018#16, 0xF0FF#16⟩, ⟨0xF01E#16, 0xF0FF#16⟩, ⟨0xF029#16, 0xF0FF#16⟩, ⟨0xF033#16, 0xF0FF#16⟩, ⟨0xF055#16, 0xF0FF#16⟩,
   ⟨0xF065#16, 0xF0FF#16⟩]

/-- The complete map: 35 rows (rules R70, R75), match and mask as spec/opcode_table.json has them. -/
def opcodeTable : List OpcodeRow := opcodeRowsLow ++ opcodeRowsAlu ++ opcodeRowsHigh

/-- The place of an instruction's row in `opcodeTable`, counted from 0. -/
def Instr.row : Instr → Nat
  | .clear => 0
  | .ret => 1
  | .sys _ => 2
  | .jump _ => 3
  | .call _ => 4
  | .skipEqByte _ _ => 5
  | .skipNeqByte _ _ => 6
  | .skipEq _ _ => 7
  | .setByte _ _ => 8
  | .addByte _ _ => 9
  | .setReg _ _ => 10
  | .or _ _ => 11
  | .and _ _ => 12
  | .xor _ _ => 13
  | .add _ _ => 14
  | .sub _ _ => 15
  | .shiftRight _ => 16
  | .subn _ _ => 17
  | .shiftLeft _ => 18
  | .skipNeq _ _ => 19
  | .setIndex _ => 20
  | .jumpV0 _ => 21
  | .rand _ _ => 22
  | .draw _ _ _ => 23
  | .skipPressed _ => 24
  | .skipNotPressed _ => 25
  | .getDelay _ => 26
  | .awaitKey _ => 27
  | .setDelay _ => 28
  | .setSound _ => 29
  | .addIndex _ => 30
  | .setChar _ => 31
  | .storeBcd _ => 32
  | .storeRegs _ => 33
  | .loadRegs _ => 34

/-- The bits of an instruction's word that the decoder looks at: all but `n` of 5xy- and 9xy- and `y` of the shifts
(rules R72, R73). -/
def Instr.readBits : Instr → Word
  | .skipEq _ _ | .skipNeq _ _ => 0xFFF0#16
  | .shiftRight _ | .shiftLeft _ => 0xFF0F#16
  | .clear | .ret | .sys _ | .jump _ | .call _ | .skipEqByte _ _ | .skipNeqByte _ _ | .setByte _ _ | .addByte _ _
  | .setReg _ _ | .or _ _ | .and _ _ | .xor _ _ | .add _ _ | .sub _ _ | .subn _ _ | .setIndex _ | .jumpV0 _ | .rand _ _
  | .draw _ _ _ | .skipPressed _ | .skipNotPressed _ | .getDelay _ | .awaitKey _ | .setDelay _ | .setSound _ | .addIndex _
  | .setChar _ | .storeBcd _ | .storeRegs _ | .loadRegs _ => 0xFFFF#16

/-- The bytes of an instruction of `nbits` bits that spec/opcode_table.json's numbering writes `w`, in the order the hardware
stores them: high byte first (rule R45). Bits above `nbits` are 0; every instruction is one 16-bit word (rule R60). -/
def tableWordBytes (nbits w : Nat) : List Byte :=
  [hiByte (BitVec.ofNat 16 (w % 2 ^ nbits)), loByte (BitVec.ofNat 16 (w % 2 ^ nbits))]

/-- The instruction the decoder reads from a word numbered as spec/opcode_table.json numbers it. -/
def decodeTableWord (nbits w : Nat) : Option Instr :=
  match decode (tableWordBytes nbits w) with
  | .ok (i, _) => some i
  | .error _ => none

end Sys2Proof
end

