-- ==== Sys2Proof/Machine/Params.lean ====
section
/-! DEFINITION. The values the parameters of rule R3 take on this hardware (spec/00_scope.md rule R3, spec/20_memory.md
rule R44). They stand here, and not in Config.lean, so that a later repair can mend one. Log entry 2. -/

namespace Sys2Proof.Machine

/-- The default glyphs, digits 0 to F, 5 rows each (rule R44; UNVERIFIED: the spec has them from general knowledge,
decision D4). -/
def glyphs : List (List Byte) :=
  [[0xF0, 0x90, 0x90, 0x90, 0xF0],
   [0x20, 0x60, 0x20, 0x20, 0x70],
   [0xF0, 0x10, 0xF0, 0x80, 0xF0],
   [0xF0, 0x10, 0xF0, 0x10, 0xF0],
   [0x90, 0x90, 0xF0, 0x10, 0x10],
   [0xF0, 0x80, 0xF0, 0x10, 0xF0],
   [0xF0, 0x80, 0xF0, 0x90, 0xF0],
   [0xF0, 0x10, 0x20, 0x40, 0x40],
   [0xF0, 0x90, 0xF0, 0x90, 0xF0],
   [0xF0, 0x90, 0xF0, 0x10, 0xF0],
   [0xF0, 0x90, 0xF0, 0x90, 0x90],
   [0xE0, 0x90, 0xE0, 0x90, 0xE0],
   [0xF0, 0x80, 0x80, 0x80, 0xF0],
   [0xE0, 0x90, 0x90, 0x90, 0xE0],
   [0xF0, 0x80, 0xF0, 0x80, 0xF0],
   [0xF0, 0x80, 0xF0, 0x80, 0x80]]

/-- The default `FONT`: the 16 glyphs one after another, glyph `g` at `5 * g` (rules R10, R44). -/
def defaultFont : Font := ⟨glyphs.flatten.toArray, by decide⟩

/-- The parameters of this hardware: `CLOCK_HZ` = 540, `DRAW_FLAG` = off_to_on, `RESET_PC` = 0x200, the default `FONT`
(rule R3; decisions D3, D4, D13). -/
def defaultConfig : Config where
  clockHz := 540
  drawFlag := .offToOn
  resetPc := 0x0200#16
  font := defaultFont

end Sys2Proof.Machine
end

