-- ==== Sys2Proof/Machine/State.lean ====
section
/-! DEFINITION. The machine's state as plain data (spec/10_state.md), the events of the block's interface that a schedule may
hold (spec/00_scope.md rule R8), the faults (spec/60_exceptions.md rule R170), the refusals, and the state after reset
(spec/70_reset_and_hazards.md rule R200). Every piece of state the spec names is a field; the last five fields are the
model's own or the host wrapper's, as INVENTORY.md says. -/

namespace Sys2Proof.Machine

/-- A key code 0x0 to 0xF (rules R21, R185). A code above 15 cannot be sent: decision D21. -/
abbrev Key := Fin 16

/-- The framebuffer: 32 rows, top to bottom, of 64 cells, left to right; `true` is on (rule R23). -/
abbrev Framebuffer := Vector (Vector Bool 64) 32

/-- One event of the block's interface (rule R8). They are atomic and fall between slices; a schedule lists them in the order
in which they happen (rule R9, log entry 4). -/
inductive Event where
  /-- one consumed clock period (rule R180) -/
  | slice
  /-- the host presses a key (rule R186) -/
  | press (k : Key)
  /-- the host releases a key (rule R187) -/
  | release (k : Key)
  /-- the host reads the framebuffer (rule R188) -/
  | pixels
  /-- the host copies a program image into memory (rule R204) -/
  | load (bytes : List Byte)
  /-- everything back to the reset values (rule R201) -/
  | reset
  /-- the host calls `step(elapsed_seconds)`, which delivers slices (rule R208) -/
  | elapse (seconds : Rat)
  deriving DecidableEq, Repr

/-- The state of the machine. -/
structure State where
  /-- `mem`, 4096 bytes (rule R10): the bytes that differ from their reset value, addresses rising (log entry 1) -/
  mem : List Host.Cell
  /-- `V[0]` to `V[15]`, 8 bits each; `V[15]` is the flag register (rules R12, R14) -/
  V : Vector Byte 16
  /-- the 16-bit index register (rule R15) -/
  I : Word
  /-- the 16-bit program counter (rule R16) -/
  pc : Word
  /-- the 16 return-address slots (rule R18) -/
  stack : Vector Word 16
  /-- the stack pointer, 0 (empty) to 16 (full), 5 bits (rule R19, log entry 9) -/
  sp : Fin 17
  /-- the delay timer (rule R20) -/
  DT : Byte
  /-- the sound timer (rule R20) -/
  ST : Byte
  /-- the pressed flags of the 16 keys (rule R21) -/
  keys : Vector Bool 16
  /-- the register a key press is awaited for, if any (rule R22) -/
  awaited : Option Reg
  /-- the framebuffer (rule R23) -/
  fb : Framebuffer
  /-- the tick divider, in units of 1/(CLOCK_HZ * 60) second (rule R24) -/
  tickAcc : Nat
  /-- `clock_acc`, the host wrapper's accumulated seconds (rules R25, R208) -/
  clockAcc : Rat
  /-- the parameters (rule R3); no step changes them -/
  cfg : Config
  /-- MODEL'S OWN: how many bytes rand has drawn; the next draw is `Config.rand8 draws` (log entry 3) -/
  draws : Nat
  /-- MODEL'S OWN: a slice has been delivered since reset, so `load` has no move any more (rule R206, log entry 6) -/
  started : Bool
  /-- MODEL'S OWN: the events that come next, first one first; when none is left every step is a slice (log entry 4) -/
  schedule : List Event
  deriving DecidableEq, Repr

/-- The kinds of access an address fault names (rules R47, R170). -/
inductive Access where
  | fetch
  | read
  | write
  deriving DecidableEq, Repr

/-- The faults of rule R170, and `load`'s oversized-program failure (rule R205). Each carries what the rule gives it and the
state the fault leaves (rules R171, R172), in which the machine goes on if the host ignores the fault (rule R175). A fault
ends the run here: decision D17, SAFE (log entry 5). -/
inductive Fault where
  /-- raised by the dispatcher on an undefined selector of family 0x8, 0xE or 0xF (rules R69, R171); SAFE -/
  | illegal (w : Word) (after : State)
  /-- raised by sys, always (rules R102, R171); SAFE -/
  | unsupported (w : Word) (after : State)
  /-- raised by fetch, draw, store-bcd, store-regs and load-regs when a byte of the access lies above 0xFFF; `addr` is the
  first address of the access (rules R47, R172; decision D5); SAFE -/
  | addressFault (kind : Access) (addr : Word) (after : State)
  /-- raised by call when 16 addresses are held (rule R104; decision D6); SAFE -/
  | stackOverflow (after : State)
  /-- raised by return when no address is held (rule R101; decision D6); SAFE -/
  | stackUnderflow (after : State)
  /-- raised by skip-pressed and skip-not-pressed when `V[x] > 15` (rules R114, R115; decision D7); SAFE -/
  | keyIndexFault (k : Byte) (after : State)
  /-- raised by the host's `load` of more than 3584 bytes, the first 3584 copied (rule R205); SAFE -/
  | oversizedProgram (after : State)
  deriving DecidableEq, Repr

/-- Why the model gives an event or an instruction no move. -/
inductive Refusal where
  /-- raised by `exec`'s arm of an instruction that has no meaning yet; none is left; SAFE -/
  | notModelled (mnemonic : String)
  /-- raised by the event `load` after the first slice: "gives a later `load` no move" (rule R206; decision D27, log entry 6);
  UNSAFE only for a host that reloads a running machine -/
  | loadAfterStart
  /-- raised by the event `elapse` of a negative time: "`e` is assumed finite and non-negative" (rule R208; decision D16, log
  entry 11); UNSAFE only for a host that passes one -/
  | negativeElapsed
  deriving DecidableEq, Repr

/-- The machine of parameters `c` right after reset (rule R200): memory as `FONT` and zeros, with nothing listed; every
register, slot, timer, key and cell zero; `pc` at `RESET_PC`. The model's own fields: nothing drawn (log entry 3), not started,
nothing scheduled. -/
def State.init (c : Config) : State where
  mem := []
  V := Vector.replicate 16 0
  I := 0
  pc := c.resetPc
  stack := Vector.replicate 16 0
  sp := 0
  DT := 0
  ST := 0
  keys := Vector.replicate 16 false
  awaited := none
  fb := Vector.replicate 32 (Vector.replicate 64 false)
  tickAcc := 0
  clockAcc := 0
  cfg := c
  draws := 0
  started := false
  schedule := []

/-- The machine right after reset, with this hardware's parameters (rules R3, R200). -/
def State.reset : State := State.init defaultConfig

end Sys2Proof.Machine
end

