-- ==== Sys2Proof/Machine/Ops.lean ====
section
/-! DEFINITION. The named operations over memory, registers, the stack and the framebuffer, and the raising of a fault, which
every meaning is written with (spec/00_scope.md rule R6, spec/20_memory.md, spec/60_exceptions.md). -/

namespace Sys2Proof.Machine

/-- What an instruction or an event answers. -/
abbrev Result := Host.Outcome State Fault Refusal

/-! ### Memory -/

/-- Memory as the bytes that differ from their reset value. -/
abbrev Memory := List Host.Cell

/-- What an address reads as that `mem` does not list: the reset contents, `FONT` at 0x000 to 0x04F and 0x00 elsewhere
(rules R11, R44; log entry 1). -/
def resetByte (font : Font) (a : Nat) : Byte := if h : a < 80 then font[a] else 0

/-- The byte at address `a`. -/
def Memory.read (font : Font) : Memory → Nat → Byte
  | [], a => resetByte font a
  | (k, b) :: rest, a => if a = k then b else Memory.read font rest a

/-- Put a cell in front, or leave it out when it holds what an unlisted address reads as. -/
def Memory.cons (font : Font) (a : Nat) (b : Byte) (m : Memory) : Memory :=
  if b = resetByte font a then m else (a, b) :: m

/-- Store `b` at address `a`, keeping the canonical form. -/
def Memory.write (font : Font) : Memory → Nat → Byte → Memory
  | [], a, b => Memory.cons font a b []
  | (k, c) :: rest, a, b =>
    if a < k then Memory.cons font a b ((k, c) :: rest)
    else if a = k then Memory.cons font a b rest
    else (k, c) :: Memory.write font rest a b

/-- The canonical form from address `lo` on: addresses rising, inside the 4096 bytes (rule R10), and no listed byte equal to
what an unlisted one reads as. -/
def Memory.wfFrom (font : Font) : Nat → Memory → Bool
  | _, [] => true
  | lo, (k, b) :: rest => decide (lo ≤ k) && decide (k < 4096) && (b != resetByte font k) && Memory.wfFrom font (k + 1) rest

/-- The canonical form of a memory. -/
def Memory.wf (font : Font) (m : Memory) : Bool := Memory.wfFrom font 0 m

/-- The byte at address `a` (rule R6, `MemRead`; the range check is `guardRange`'s). -/
def State.byteAt (s : State) (a : Nat) : Byte := Memory.read s.cfg.font s.mem a

/-- Store the byte `b` at address `a` (rule R6, `MemWrite`; the range check is `guardRange`'s). No address is write protected
(rule R43, decision D18). -/
def State.writeByte (s : State) (a : Nat) (b : Byte) : State := { s with mem := Memory.write s.cfg.font s.mem a b }

/-- Store bytes at `a`, `a + 1`, ... in that order. -/
def State.writeBytes (s : State) : Nat → List Byte → State
  | _, [] => s
  | a, b :: bs => (s.writeByte a b).writeBytes (a + 1) bs

/-- The `n` bytes at `a`, `a + 1`, ... -/
def State.readBytes (s : State) (a : Nat) : Nat → List Byte
  | 0 => []
  | n + 1 => s.byteAt a :: s.readBytes (a + 1) n

/-- Every byte of an access of `n` bytes from `a` lies in 0x000 to 0xFFF; an access of no bytes touches none
(rule R47; `a` is a mathematical integer, nothing wraps). -/
def inRange (a n : Nat) : Bool := decide (n = 0 ∨ a + n - 1 ≤ 0xFFF)

/-! ### Registers, one update each -/

/-- Read of `V[r]` (rule R6). -/
def State.reg (s : State) (r : Reg) : Byte := s.V[r]

/-- `V[r] <- v` (rule R6). No register is hard-wired (rule R12). -/
def State.setV (s : State) (r : Reg) (v : Byte) : State := { s with V := s.V.set r v }

/-- `V[15] <- v`, the side effect of the six flag writers (rule R14). -/
def State.setVF (s : State) (v : Byte) : State := s.setV Reg.VF v

/-- `I <- v` (rule R15). -/
def State.setI (s : State) (v : Word) : State := { s with I := v }

/-- `pc <- v` (rule R16). -/
def State.setPc (s : State) (v : Word) : State := { s with pc := v }

/-- `DT <- v` (rule R20). -/
def State.setDT (s : State) (v : Byte) : State := { s with DT := v }

/-- `ST <- v` (rule R20). -/
def State.setST (s : State) (v : Byte) : State := { s with ST := v }

/-- `awaited <- a` (rule R22). -/
def State.setAwaited (s : State) (a : Option Reg) : State := { s with awaited := a }

/-- The whole framebuffer. -/
def State.setFb (s : State) (f : Framebuffer) : State := { s with fb := f }

/-- `keys[k] <- b` (rule R21). -/
def State.setKey (s : State) (k : Key) (b : Bool) : State := { s with keys := s.keys.set k b }

/-- One more byte has been drawn by rand (log entry 3). -/
def State.countDraw (s : State) : State := { s with draws := s.draws + 1 }

/-- The pc advance of 2: the controller's before the body, and a taken skip's (rules R66, R110; 16-bit, rule R17). -/
def State.advancePc (s : State) : State := s.setPc (s.pc + 2)

/-- Write the result, then the flag: add, sub, subn (rule R131, decision D8). -/
def State.resultThenFlag (s : State) (x : Reg) (result flag : Byte) : State := (s.setV x result).setVF flag

/-- Write the flag, then the result: the shifts (rule R131, decision D8). -/
def State.flagThenResult (s : State) (x : Reg) (result flag : Byte) : State := (s.setVF flag).setV x result

/-! ### The call stack -/

/-- `stack[sp] <- v; sp <- sp + 1`, for a stack that is not full (rules R19, R104). -/
def State.push (s : State) (v : Word) (h : s.sp.val < 16) : State :=
  { s with stack := s.stack.set s.sp.val v, sp := ⟨s.sp.val + 1, by omega⟩ }

/-- `sp <- sp - 1; pc <- stack[sp]`, for a stack that is not empty. The slot keeps its content (rules R18, R101). -/
def State.popToPc (s : State) (h : 0 < s.sp.val) : State :=
  { s with sp := ⟨s.sp.val - 1, by omega⟩, pc := s.stack[s.sp.val - 1]'(by omega) }

/-! ### The framebuffer -/

/-- The framebuffer with every cell off (rule R100). -/
def blankScreen : Framebuffer := Vector.replicate 32 (Vector.replicate 64 false)

/-- `fb[y][x]` (rule R23). -/
def Framebuffer.cell (f : Framebuffer) (y : Fin 32) (x : Fin 64) : Bool := f[y][x]

/-- `fb[y][x] <- b`. -/
def Framebuffer.setCell (f : Framebuffer) (y : Fin 32) (x : Fin 64) (b : Bool) : Framebuffer := f.set y (f[y].set x b)

/-! ### Faults: raising one, and what the host may do after it -/

/-- `raise <Fault>(info)`: the one way a cycle ends in a fault. There is no trap entry inside the machine: no handler, no saved
`pc`, no cause register, no mode; the fault is the outcome, and the state it leaves is the state `s` in which it is raised,
because every check comes before the first write (rules R6, R171, R172, R174). -/
def raise (f : State → Fault) (s : State) : Result := .fault (f s)

/-- The state a fault leaves (rules R171, R172, R205). -/
def Fault.after : Fault → State
  | .illegal _ s => s
  | .unsupported _ s => s
  | .addressFault _ _ s => s
  | .stackOverflow s => s
  | .stackUnderflow s => s
  | .keyIndexFault _ s => s
  | .oversizedProgram s => s

/-- Every element back to its reset value, memory and program included (rules R200, R201). The parameters, the count of draws
and the events still to come are not the block's and stay (log entry 15). -/
def State.resetBlock (s : State) : State := { State.init s.cfg with draws := s.draws, schedule := s.schedule }

/-- There is no return-from-trap instruction; what takes its place is the host's choice after a fault (rule R175): stop,
reset, or ignore the fault and let the machine go on in the state it left. -/
def Fault.resume (p : OnFault) (f : Fault) : Option State :=
  match p with
  | .halt => none
  | .reset => some f.after.resetBlock
  | .ignore => some f.after

/-- The bounds check of rule R47, made before any write: go on with `next`, or raise AddressFault with the first address of
the access. -/
def guardRange (kind : Access) (first : Word) (n : Nat) (s : State) (next : State) : Result :=
  if inRange first.toNat n then .next next else raise (.addressFault kind first) s

end Sys2Proof.Machine
end

