-- ==== Sys2Proof/Machine/Operands.lean ====
section
/-! DEFINITION. The operand forms (spec/30_encoding.md rule R64, spec/43_index_and_memory.md): registers are read with
`State.reg`; an immediate is the unsigned value of its field, widened with zeros; data is addressed by base `I` plus an offset
the instruction counts itself. There is no other addressing mode. -/

namespace Sys2Proof.Machine

/-- `zext_16(nnn)`: the 12-bit address as a word (rules R5, R64). -/
def addrWord (nnn : Addr) : Word := nnn.setWidth 16

/-- `zext_16(v)`: a byte as a word (rules R5, R141). -/
def byteWord (v : Byte) : Word := v.setWidth 16

/-- `zext_8(k)`: a key code as a byte (rule R186). -/
def keyByte (k : Key) : Byte := BitVec.ofNat 8 k.val

/-- jump-v0's target: `(nnn + V[0]) mod 4096` (rule R105). -/
def jumpV0Target (nnn : Addr) (v0 : Byte) : Word := BitVec.ofNat 16 ((nnn.toNat + v0.toNat) % 4096)

/-- The base address of the memory instructions, as a mathematical integer (rules R15, R47). -/
def State.base (s : State) : Nat := s.I.toNat

/-- The registers `V[0]` to `V[x]`, ascending: the block of store-regs and load-regs (rules R13, R144, R145). -/
def regsUpTo (x : Reg) : List Reg := (List.finRange 16).filter (fun k => decide (k ≤ x))

/-- The key a key skip asks for: the value of `V[x]`, when it is a key code (rules R114, R115). -/
def keyOf (v : Byte) : Option Key := if h : v.toNat < 16 then some ⟨v.toNat, h⟩ else none

/-- The address of the glyph for the low nibble of a register: 5 bytes a glyph from address 0 (rule R142). -/
def glyphAddr (v : Byte) : Word := BitVec.ofNat 16 (5 * (v.toNat % 16))

/-- The three decimal digits: hundreds, tens, units (rule R143; conflict C6). -/
def bcdDigits (v : Byte) : List Byte :=
  [BitVec.ofNat 8 (v.toNat / 100), BitVec.ofNat 8 (v.toNat / 10 % 10), BitVec.ofNat 8 (v.toNat % 10)]

/-- The framebuffer column of sprite column `c` (rule R152, decision D12). -/
def spriteCol (x0 : Byte) (c : Nat) : Fin 64 := Fin.ofNat 64 (x0.toNat + c)

/-- The framebuffer row of sprite row `r` (rule R152, decision D12). -/
def spriteRow (y0 : Byte) (r : Nat) : Fin 32 := Fin.ofNat 32 (y0.toNat + r)

/-- The sprite bit of column `c` in a byte: bit 7 is the leftmost (rule R151, decision D11). -/
def spriteBit (b : Byte) (c : Nat) : Bool := b.getLsbD (7 - c)

end Sys2Proof.Machine
end

