-- ==== Sys2Proof/Machine/Alu.lean ====
section
/-! DEFINITION. Register load, arithmetic, bitwise, shift and random (spec/42_load_and_alu.md). 8-bit arithmetic wraps silently
(rule R133); none of these can fault. Every source operand is read before either write (rule R131). -/

namespace Sys2Proof.Machine

/-- set-byte (rule R120). -/
def execSetByte (x : Reg) (nn : Byte) (s : State) : Result := .next (s.setV x nn)

/-- add-byte: no flag effect (rule R121). -/
def execAddByte (x : Reg) (nn : Byte) (s : State) : Result := .next (s.setV x (s.reg x + nn))

/-- set (rule R122). -/
def execSetReg (x y : Reg) (s : State) : Result := .next (s.setV x (s.reg y))

/-- or (rule R123). -/
def execOr (x y : Reg) (s : State) : Result := .next (s.setV x (s.reg x ||| s.reg y))

/-- and (rule R124). -/
def execAnd (x y : Reg) (s : State) : Result := .next (s.setV x (s.reg x &&& s.reg y))

/-- xor (rule R125). -/
def execXor (x y : Reg) (s : State) : Result := .next (s.setV x (s.reg x ^^^ s.reg y))

/-- add: the sum, then the carry into `VF` (rules R126, R131). -/
def execAdd (x y : Reg) (s : State) : Result :=
  .next (s.resultThenFlag x (s.reg x + s.reg y) (addFlag (s.reg x) (s.reg y)))

/-- sub: the difference `x - y`, then 1 into `VF` if `x > y` (rules R127, R131). -/
def execSub (x y : Reg) (s : State) : Result :=
  .next (s.resultThenFlag x (s.reg x - s.reg y) (subFlag (s.reg x) (s.reg y)))

/-- subn: the difference `y - x`, then 1 into `VF` if `y > x` (rules R128, R131). -/
def execSubn (x y : Reg) (s : State) : Result :=
  .next (s.resultThenFlag x (s.reg y - s.reg x) (subFlag (s.reg y) (s.reg x)))

/-- shift-right: bit 0 into `VF`, then the shifted value (rules R129, R131). -/
def execShiftRight (x : Reg) (s : State) : Result :=
  .next (s.flagThenResult x (s.reg x >>> 1) (shiftRightFlag (s.reg x)))

/-- shift-left: bit 7 into `VF`, then the shifted value (rules R130, R131). -/
def execShiftLeft (x : Reg) (s : State) : Result :=
  .next (s.flagThenResult x (s.reg x <<< 1) (shiftLeftFlag (s.reg x)))

/-- rand: a fresh free byte AND `nn` (rule R132, decision D14, log entry 3). -/
def execRand (x : Reg) (nn : Byte) (s : State) : Result :=
  .next ((s.setV x (Config.rand8 s.draws &&& nn)).countDraw)

end Sys2Proof.Machine
end

