-- ==== Sys2Proof/Machine/Draw.lean ====
section
/-! DEFINITION. The framebuffer XOR writer, draw (spec/44_draw.md), as the loops of rule R150 write it. -/

namespace Sys2Proof.Machine

/-- What the loops of draw carry: the framebuffer so far and the flag so far. -/
abbrev Blit := Framebuffer × Bool

/-- The body of the inner loop for sprite column `c` of a row whose byte is `b`: a 1 bit flips its cell (rule R150). -/
def drawPixel (d : DrawFlag) (x0 : Byte) (py : Fin 32) (b : Byte) (p : Blit) (c : Nat) : Blit :=
  if spriteBit b c then
    (p.1.setCell py (spriteCol x0 c) (!p.1.cell py (spriteCol x0 c)),
     p.2 || drawFlagFires d (p.1.cell py (spriteCol x0 c)))
  else p

/-- One sprite row: columns 0 to 7, left to right (rule R150). -/
def drawRow (d : DrawFlag) (x0 : Byte) (py : Fin 32) (b : Byte) (p : Blit) : Blit :=
  (List.range 8).foldl (drawPixel d x0 py b) p

/-- The sprite rows from row `r` on, top to bottom, one byte a row (rules R150, R151). -/
def drawRows (d : DrawFlag) (x0 y0 : Byte) : Nat → List Byte → Blit → Blit
  | _, [], p => p
  | r, b :: bs, p => drawRows d x0 y0 (r + 1) bs (drawRow d x0 (spriteRow y0 r) b p)

/-- The whole sprite of `n` rows at `I`, drawn with its left top corner at column `V[x]`, row `V[y]` (rule R150). -/
def State.blit (s : State) (x y : Reg) (n : Nat) : Blit :=
  drawRows s.cfg.drawFlag (s.reg x) (s.reg y) 0 (s.readBytes s.base n) (s.fb, false)

/-- draw: the sprite, then the flag into `VF`, always (rules R150, R154). -/
def execDraw (x y : Reg) (n : Fin 16) (s : State) : Result :=
  guardRange .read s.I n.val s ((s.setFb (s.blit x y n.val).1).setVF (flagByte (s.blit x y n.val).2))

end Sys2Proof.Machine
end

