-- ==== Sys2Proof/Machine/Index.lean ====
section
/-! DEFINITION. The index register and memory transfer (spec/43_index_and_memory.md). Only set-index, add-index and set-char
change `I`. The memory instructions check their whole range before they write anything (spec/20_memory.md rule R47). -/

namespace Sys2Proof.Machine

/-- set-index (rule R140). -/
def execSetIndex (nnn : Addr) (s : State) : Result := .next (s.setI (addrWord nnn))

/-- add-index: wraps modulo 65536, no flag (rule R141, decision D9). -/
def execAddIndex (x : Reg) (s : State) : Result := .next (s.setI (s.I + byteWord (s.reg x)))

/-- set-char (rule R142). -/
def execSetChar (x : Reg) (s : State) : Result := .next (s.setI (glyphAddr (s.reg x)))

/-- store-bcd: hundreds, tens, units at `I`, `I + 1`, `I + 2` (rule R143). -/
def execStoreBcd (x : Reg) (s : State) : Result :=
  guardRange .write s.I 3 s (s.writeBytes s.base (bcdDigits (s.reg x)))

/-- store-regs: `V[0]` to `V[x]` from `I` on, ascending; `I` unchanged (rule R144, decision D10). -/
def execStoreRegs (x : Reg) (s : State) : Result :=
  guardRange .write s.I (x.val + 1) s (s.writeBytes s.base ((regsUpTo x).map s.reg))

/-- Load `V[k]` with the byte at `I + k`, for each `k` of the list in turn (rule R145). -/
def State.loadRegs (s : State) (ks : List Reg) : State := ks.foldl (fun t k => t.setV k (t.byteAt (t.base + k.val))) s

/-- load-regs: `V[0]` to `V[x]` from memory at `I` on; `I` unchanged (rule R145, decision D10). -/
def execLoadRegs (x : Reg) (s : State) : Result := guardRange .read s.I (x.val + 1) s (s.loadRegs (regsUpTo x))

end Sys2Proof.Machine
end

