-- ==== Sys2Proof/Machine/ScreenFlow.lean ====
section
/-! DEFINITION. Screen clear and control transfer: clear, return, sys, jump, call, jump-v0 (spec/40_screen_and_flow.md). As in
every meaning, `pc` already holds the instruction's address plus 2 (spec/30_encoding.md rule R66). -/

namespace Sys2Proof.Machine

/-- clear: every cell off (rule R100). -/
def execClear (s : State) : Result := .next (s.setFb blankScreen)

/-- return: pop the return address into `pc`; StackUnderflow when none is held (rule R101, decision D6). -/
def execRet (s : State) : Result :=
  if h : 0 < s.sp.val then .next (s.popToPc h) else raise .stackUnderflow s

/-- sys: always Unsupported, with the instruction word (rule R102). -/
def execSys (nnn : Addr) (s : State) : Result := raise (.unsupported (encode (.sys nnn))) s

/-- jump (rule R103). -/
def execJump (nnn : Addr) (s : State) : Result := .next (s.setPc (addrWord nnn))

/-- call: push `pc`, go to `nnn`; StackOverflow when 16 addresses are held (rule R104, decision D6). -/
def execCall (nnn : Addr) (s : State) : Result :=
  if h : s.sp.val < 16 then .next ((s.push s.pc h).setPc (addrWord nnn)) else raise .stackOverflow s

/-- jump-v0: always register 0 (rule R105). -/
def execJumpV0 (nnn : Addr) (s : State) : Result := .next (s.setPc (jumpV0Target nnn (s.reg 0)))

end Sys2Proof.Machine
end

