-- ==== Sys2Proof/Machine/Skip.lean ====
section
/-! DEFINITION. The six conditional skips (spec/41_skip.md). A taken skip advances `pc` by 2 more; nothing else is written. -/

namespace Sys2Proof.Machine

/-- "advance PC by 2 more" if the condition holds (rule R110). -/
def skipIf (c : Bool) (s : State) : Result := .next (if c then s.advancePc else s)

/-- A key skip: KeyIndexFault when `V[x]` is no key code, else a skip on the key's flag (rules R114, R115, decision D7). -/
def skipOnKey (x : Reg) (wanted : Bool) (s : State) : Result :=
  match keyOf (s.reg x) with
  | some k => skipIf (s.keys[k] == wanted) s
  | none => raise (.keyIndexFault (s.reg x)) s

/-- skip-eq-byte (rule R110). -/
def execSkipEqByte (x : Reg) (nn : Byte) (s : State) : Result := skipIf (s.reg x == nn) s

/-- skip-neq-byte (rule R111). -/
def execSkipNeqByte (x : Reg) (nn : Byte) (s : State) : Result := skipIf (s.reg x != nn) s

/-- skip-eq (rule R112). -/
def execSkipEq (x y : Reg) (s : State) : Result := skipIf (s.reg x == s.reg y) s

/-- skip-neq (rule R113). -/
def execSkipNeq (x y : Reg) (s : State) : Result := skipIf (s.reg x != s.reg y) s

/-- skip-pressed (rule R114). -/
def execSkipPressed (x : Reg) (s : State) : Result := skipOnKey x true s

/-- skip-not-pressed (rule R115). -/
def execSkipNotPressed (x : Reg) (s : State) : Result := skipOnKey x false s

end Sys2Proof.Machine
end

