-- ==== Sys2Proof/Machine/TimerKey.lean ====
section
/-! DEFINITION. Timer access and key wait: get-delay, set-delay, set-sound, await-key (spec/45_timer_and_key.md). None writes
`VF` as a side effect; none can fault. -/

namespace Sys2Proof.Machine

/-- get-delay (rule R160). -/
def execGetDelay (x : Reg) (s : State) : Result := .next (s.setV x s.DT)

/-- set-delay (rule R161). -/
def execSetDelay (x : Reg) (s : State) : Result := .next (s.setDT (s.reg x))

/-- set-sound (rule R162). -/
def execSetSound (x : Reg) (s : State) : Result := .next (s.setST (s.reg x))

/-- await-key: the register is written by the `press` event that ends the wait (rules R163, R186). -/
def execAwaitKey (x : Reg) (s : State) : Result := .next (s.setAwaited (some x))

end Sys2Proof.Machine
end

