-- ==== Sys2Proof/Machine/Dispatch.lean ====
section
/-! DEFINITION. The execution table: one arm per constructor of `Instr`, each a direct call of the instruction's meaning
(spec/30_encoding.md rules R65, R70). `exec` is step 4 of the cycle: the state it is given already holds the instruction's
address plus 2 in `pc` (rule R66). -/

namespace Sys2Proof.Machine

def exec (i : Instr) (s : State) : Host.Outcome State Fault Refusal :=
  match i with
  | .clear => Sys2Proof.Machine.execClear s
  | .ret => Sys2Proof.Machine.execRet s
  | .sys nnn => Sys2Proof.Machine.execSys nnn s
  | .jump nnn => Sys2Proof.Machine.execJump nnn s
  | .call nnn => Sys2Proof.Machine.execCall nnn s
  | .skipEqByte x nn => Sys2Proof.Machine.execSkipEqByte x nn s
  | .skipNeqByte x nn => Sys2Proof.Machine.execSkipNeqByte x nn s
  | .skipEq x y => Sys2Proof.Machine.execSkipEq x y s
  | .setByte x nn => Sys2Proof.Machine.execSetByte x nn s
  | .addByte x nn => Sys2Proof.Machine.execAddByte x nn s
  | .setReg x y => Sys2Proof.Machine.execSetReg x y s
  | .or x y => Sys2Proof.Machine.execOr x y s
  | .and x y => Sys2Proof.Machine.execAnd x y s
  | .xor x y => Sys2Proof.Machine.execXor x y s
  | .add x y => Sys2Proof.Machine.execAdd x y s
  | .sub x y => Sys2Proof.Machine.execSub x y s
  | .shiftRight x => Sys2Proof.Machine.execShiftRight x s
  | .subn x y => Sys2Proof.Machine.execSubn x y s
  | .shiftLeft x => Sys2Proof.Machine.execShiftLeft x s
  | .skipNeq x y => Sys2Proof.Machine.execSkipNeq x y s
  | .setIndex nnn => Sys2Proof.Machine.execSetIndex nnn s
  | .jumpV0 nnn => Sys2Proof.Machine.execJumpV0 nnn s
  | .rand x nn => Sys2Proof.Machine.execRand x nn s
  | .draw x y n => Sys2Proof.Machine.execDraw x y n s
  | .skipPressed x => Sys2Proof.Machine.execSkipPressed x s
  | .skipNotPressed x => Sys2Proof.Machine.execSkipNotPressed x s
  | .getDelay x => Sys2Proof.Machine.execGetDelay x s
  | .awaitKey x => Sys2Proof.Machine.execAwaitKey x s
  | .setDelay x => Sys2Proof.Machine.execSetDelay x s
  | .setSound x => Sys2Proof.Machine.execSetSound x s
  | .addIndex x => Sys2Proof.Machine.execAddIndex x s
  | .setChar x => Sys2Proof.Machine.execSetChar x s
  | .storeBcd x => Sys2Proof.Machine.execStoreBcd x s
  | .storeRegs x => Sys2Proof.Machine.execStoreRegs x s
  | .loadRegs x => Sys2Proof.Machine.execLoadRegs x s

end Sys2Proof.Machine
end

