-- ==== Sys2Proof/Machine/Slice.lean ====
section
/-! DEFINITION. One consumed clock period: the tick check, then one fetch-decode-execute cycle unless a key is awaited
(spec/60_exceptions.md rules R180 to R184, spec/30_encoding.md rules R65, R66). -/

namespace Sys2Proof.Machine

/-- A timer one less, floor at zero (rule R182). -/
def countDown (t : Byte) : Byte := if t = 0 then 0 else t - 1

/-- The tick: both timers, each independently of the other (rule R182). -/
def State.tick (s : State) : State := { s with DT := countDown s.DT, ST := countDown s.ST }

/-- The tick divider: add one clock period, tick when it strictly exceeds one tick period (rule R181, decision D15, log
entry 12). -/
def State.tickCheck (s : State) : State :=
  if s.cfg.clockHz < s.tickAcc + 60 then { s.tick with tickAcc := s.tickAcc + 60 - s.cfg.clockHz }
  else { s with tickAcc := s.tickAcc + 60 }

/-- The instruction word at `pc`, big-endian (rule R45). -/
def State.fetchWord (s : State) : Word := wordOfBytes (s.byteAt s.pc.toNat) (s.byteAt (s.pc.toNat + 1))

/-- One fetch-decode-execute cycle (rule R65). A fetch fault leaves `pc` unchanged (rule R172); an Illegal word leaves it
advanced (rules R66, R171). -/
def State.cycle (s : State) : Result :=
  if inRange s.pc.toNat 2 then
    match decodeWord s.fetchWord with
    | .ok i => exec i s.advancePc
    | .error _ => raise (.illegal s.fetchWord) s.advancePc
  else raise (.addressFault .fetch s.pc) s

/-- What every slice does before its cycle: the tick check (rule R180), and the note that a slice has happened (log entry 6). -/
def State.beginSlice (s : State) : State := { s.tickCheck with started := true }

/-- One slice (rule R180). Suspended on await-key, nothing but the tick check happens (rules R183, R184). -/
def State.slice (s : State) : Result :=
  match s.awaited with
  | none => s.beginSlice.cycle
  | some _ => .next s.beginSlice

end Sys2Proof.Machine
end

