-- ==== Sys2Proof/Machine/HostEvents.lean ====
section
/-! DEFINITION. The host's side of the block's interface (spec/00_scope.md rule R8): press, release and pixels
(spec/60_exceptions.md rules R186 to R188), load and reset (spec/70_reset_and_hazards.md rules R201, R204 to R206), and the step
wrapper that turns elapsed seconds into slices (rule R208). -/

namespace Sys2Proof.Machine

/-- `press(k)`: the flag is set, and a pending await is resolved, whether or not the key was held (rule R186, decision D26). -/
def State.press (s : State) (k : Key) : State :=
  match s.awaited with
  | some r => ((s.setKey k true).setV r (keyByte k)).setAwaited none
  | none => s.setKey k true

/-- `release(k)` (rule R187). -/
def State.release (s : State) (k : Key) : State := s.setKey k false

/-- `pixels`: the 32 rows of 64 cells, row 0 first; a view without effect on the machine (rule R188). -/
def State.pixels (s : State) : List (List Bool) := s.fb.toList.map Vector.toList

/-- `PROG_BASE` (rule R3). -/
def progBase : Nat := 0x200

/-- `PROG_MAX` (rule R3). -/
def progMax : Nat := 3584

/-- The copy that `load` makes: byte `k` at `0x200 + k`, at most 3584 bytes (rule R204). -/
def State.loadImage (s : State) (b : List Byte) : State := s.writeBytes progBase (b.take progMax)

/-- `load(bytes)`: only before the first slice (rule R206); an oversized program is a failure that leaves the bytes copied
(rule R205). -/
def State.load (s : State) (b : List Byte) : Result :=
  if s.started then .refused .loadAfterStart
  else if progMax < b.length then raise .oversizedProgram (s.loadImage b)
  else .next (s.loadImage b)

/-- The whole clock periods in an amount of accumulated time: how often the wrapper's loop can run (rule R208). -/
def wholePeriods (seconds : Rat) (clockHz : Nat) : Nat := (seconds * clockHz).floor.toNat

/-- Take one clock period from the accumulated time (rule R208). -/
def State.consumePeriod (s : State) : State := { s with clockAcc := s.clockAcc - 1 / s.cfg.clockHz }

/-- The wrapper's loop, at most `n` times round: while a whole period is left, consume it and run a slice; a fault ends the
loop and the remaining time stays (rule R208). -/
def drain : Nat → State → Result
  | 0, s => .next s
  | n + 1, s =>
    if 1 / (s.cfg.clockHz : Rat) ≤ s.clockAcc then
      match s.consumePeriod.slice with
      | .next t => drain n t
      | .fault f => .fault f
      | .refused r => .refused r
    else .next s

/-- `step(elapsed_seconds)` (rule R208). A negative time has no move (decision D16, log entry 11). -/
def State.elapse (s : State) (e : Rat) : Result :=
  if e < 0 then .refused .negativeElapsed
  else drain (wholePeriods (s.clockAcc + e) s.cfg.clockHz) { s with clockAcc := s.clockAcc + e }

/-- One event of the interface, as one indivisible transition (rule R8). -/
def deliver (e : Event) (s : State) : Result :=
  match e with
  | .slice => s.slice
  | .press k => .next (s.press k)
  | .release k => .next (s.release k)
  | .pixels => .next s
  | .load b => s.load b
  | .reset => .next s.resetBlock
  | .elapse t => s.elapse t

/-- The next event of the schedule, or a slice when the schedule is empty (rules R8, R9; log entry 4). -/
def nextEvent (s : State) : Event :=
  match s.schedule with
  | [] => .slice
  | e :: _ => e

/-- The schedule without the event that is being delivered. -/
def State.takeEvent (s : State) : State := { s with schedule := s.schedule.tail }

/-- Where a loaded instruction can be fetched: `pc` itself, or 0x200 when `pc` is past the last word (log entry 10). -/
def fetchPoint (s : State) : Word := if inRange s.pc.toNat 2 then s.pc else 0x200#16

/-- Make the very next step a slice that runs a cycle at `fetchPoint`: no event pending, no key awaited (log entry 10). -/
def State.readyToFetch (s : State) : State := { s with schedule := [], awaited := none, pc := fetchPoint s }

end Sys2Proof.Machine
end

