-- ==== Sys2Proof/Machine/Step.lean ====
section
/-! DEFINITION. One step of the machine: the next event of its schedule, which is a slice when nothing is scheduled
(spec/00_scope.md rules R8, R9), and the placing of one instruction where the next step fetches it. -/

namespace Sys2Proof.Machine

/-- One step: deliver the next event (log entry 4). -/
def step (s : State) : Host.Outcome State Fault Refusal := deliver (nextEvent s) s.takeEvent

/-- `s` with the instruction numbered as spec/opcode_table.json numbers it stored where the next step fetches (log entry 10). -/
def State.withFetchWord (s : State) (nbits w : Nat) : State :=
  s.readyToFetch.writeBytes s.readyToFetch.pc.toNat (tableWordBytes nbits w)

end Sys2Proof.Machine
end

