-- ==== Sys2Proof/Safety.lean ====
section
/-! DEFINITION. The terms in which claims about the machine are stated: what a transition leaves unchanged, part by part; the
invariants of the state; which words are no instruction; which cells a sprite covers. Nothing here is used by the machine. -/

namespace Sys2Proof.Machine

/-! ### Frames -/

/-- The parts of the state, one for each element INVENTORY.md lists. -/
inductive Part where
  | mem
  | regs
  | index
  | pc
  | stack
  | sp
  | delay
  | sound
  | keys
  | awaited
  | screen
  | tick
  | clock
  | cfg
  | draws
  | started
  | schedule
  deriving DecidableEq, Repr

/-- A part holds in `t` what it held in `s`; memory is compared through the read of one byte, registers, slots, keys and cells
one by one. -/
def Unchanged (s t : State) : Part → Prop
  | .mem => ∀ a : Nat, t.byteAt a = s.byteAt a
  | .regs => ∀ r : Reg, t.V[r] = s.V[r]
  | .index => t.I = s.I
  | .pc => t.pc = s.pc
  | .stack => ∀ k : Fin 16, t.stack[k] = s.stack[k]
  | .sp => t.sp = s.sp
  | .delay => t.DT = s.DT
  | .sound => t.ST = s.ST
  | .keys => ∀ k : Key, t.keys[k] = s.keys[k]
  | .awaited => t.awaited = s.awaited
  | .screen => ∀ (y : Fin 32) (x : Fin 64), t.fb[y][x] = s.fb[y][x]
  | .tick => t.tickAcc = s.tickAcc
  | .clock => t.clockAcc = s.clockAcc
  | .cfg => t.cfg = s.cfg
  | .draws => t.draws = s.draws
  | .started => t.started = s.started
  | .schedule => t.schedule = s.schedule

/-- Every part but those listed is unchanged. -/
def SameBut (parts : List Part) (s t : State) : Prop := ∀ p : Part, p ∉ parts → Unchanged s t p

/-- Every general register but those listed is unchanged. -/
def RegsSameBut (rs : List Reg) (s t : State) : Prop := ∀ r : Reg, r ∉ rs → t.V[r] = s.V[r]

/-- Every byte of memory outside the `n` bytes from `first` on is unchanged. -/
def BytesSameBut (first n : Nat) (s t : State) : Prop :=
  ∀ a : Nat, ¬ (first ≤ a ∧ a < first + n) → t.byteAt a = s.byteAt a

/-! ### Invariants -/

/-- The memory of the state is in its canonical form. -/
def State.memWf (s : State) : Bool := Memory.wf s.cfg.font s.mem

/-- The data invariant: parameters as rule R3 asks, the tick divider in its range 0 to `CLOCK_HZ` (rules R24, R181), memory in
canonical form with every listed address inside the 4096 bytes (rule R10), no negative accumulated time (rule R208). -/
structure State.Inv (s : State) : Prop where
  cfg_valid : s.cfg.valid = true
  tick_le : s.tickAcc ≤ s.cfg.clockHz
  mem_wf : s.memWf = true
  clock_nonneg : 0 ≤ s.clockAcc

/-- The range of the program counter (rule R17): 0x0000 to 0x1002, with every return address at most 0x1000. -/
structure State.PcInv (s : State) : Prop where
  reset_le : s.cfg.resetPc.toNat ≤ 0x1002
  pc_le : s.pc.toNat ≤ 0x1002
  slots_le : ∀ k : Fin 16, s.stack[k].toNat ≤ 0x1000

/-! ### Words, events, sprites -/

/-- The words of rule R69 that are Illegal: an undefined selector of family 0x8, 0xE or 0xF, written over the word's digits. -/
def IllegalWord (w : Word) : Prop :=
  (w.toNat / 4096 = 0x8 ∧ w.toNat % 16 ∈ [0x8, 0x9, 0xA, 0xB, 0xC, 0xD, 0xF]) ∨
  (w.toNat / 4096 = 0xE ∧ w.toNat % 256 ∉ [0x9E, 0xA1]) ∨
  (w.toNat / 4096 = 0xF ∧ w.toNat % 256 ∉ [0x07, 0x0A, 0x15, 0x18, 0x1E, 0x29, 0x33, 0x55, 0x65])

/-- The words of rule R69 that are Unsupported: family 0x0 other than 0x00E0 and 0x00EE. -/
def UnsupportedWord (w : Word) : Prop := w.toNat < 0x1000 ∧ w.toNat ≠ 0x00E0 ∧ w.toNat ≠ 0x00EE

/-- The next step is a slice: it is scheduled, or nothing is. -/
def SliceNext (s : State) : Prop := s.schedule = [] ∨ ∃ rest, s.schedule = .slice :: rest

/-- The same fault with its state changed by `h`. -/
def Fault.mapAfter (h : State → State) : Fault → Fault
  | .illegal w s => .illegal w (h s)
  | .unsupported w s => .unsupported w (h s)
  | .addressFault k a s => .addressFault k a (h s)
  | .stackOverflow s => .stackOverflow (h s)
  | .stackUnderflow s => .stackUnderflow (h s)
  | .keyIndexFault k s => .keyIndexFault k (h s)
  | .oversizedProgram s => .oversizedProgram (h s)

/-- A sprite of `n` rows at `I` whose left top corner is at column `V[x]`, row `V[y]` has a 1 bit for the cell in row `py`,
column `px` (rules R150 to R152). -/
def SpriteCovers (s : State) (x y : Reg) (n : Nat) (py : Fin 32) (px : Fin 64) : Prop :=
  ∃ r c : Nat, r < n ∧ c < 8 ∧ py.val = (s.V[y].toNat + r) % 32 ∧ px.val = (s.V[x].toNat + c) % 64 ∧
    (s.byteAt (s.base + r)).getLsbD (7 - c) = true

/-- The transition that sets draw's flag happens at a cell that was `old` before it was flipped (rule R153). -/
def FlagTransition (d : DrawFlag) (old : Bool) : Prop :=
  match d with
  | .offToOn => old = false
  | .onToOff => old = true

end Sys2Proof.Machine
end

