-- ==== Sys2Proof/Certificates/Slice0/Obligations.lean ====
section
/-! DEFINITION. The statements for the provers. Each is a rule of spec/ or a group of rules of one shape; OBLIGATIONS.json says
which. In every statement about `exec i s`, the state `s` is the one the body of the instruction starts from: its `pc` is already
the instruction's address plus 2 (spec/30_encoding.md rule R66). `s.base` is the address in `I`, the function the memory
instructions compute their addresses with. A docstring names the decision of the spec (D<n> of spec/92_eei_decisions.md) and
the log entry when a clause rests on one: what the spec itself calls its own choice is no rule of the source. The numbers of
the opcode words (every clause that says which word is which instruction, but the one for 0x00E0) are decision D1, log entry 7. Every
clause about `schedule`, or with the premise `SliceNext`, is in the model's form of the host, log entry 4. -/

open Sys2Proof Sys2Proof.Machine

/-! ### Reset -/

/-- R200: every element at its reset value, for every choice of the parameters; this hardware's `pc` at 0x200
(decision D3, log entry 2; memory outside the font zero: decision D23, log entry 1). -/
def Obligations.ResetLeavesEveryElementAtItsValue : Prop :=
  (∀ c : Config,
    (∀ a : Fin 80, (State.init c).byteAt a.val = c.font[a]) ∧
    (∀ a : Nat, 80 ≤ a → (State.init c).byteAt a = 0x00#8) ∧
    (∀ r : Reg, (State.init c).V[r] = 0x00#8) ∧
    (State.init c).I = 0x0000#16 ∧
    (State.init c).pc = c.resetPc ∧
    (∀ k : Fin 16, (State.init c).stack[k] = 0x0000#16) ∧
    (State.init c).sp = 0 ∧
    (State.init c).DT = 0x00#8 ∧ (State.init c).ST = 0x00#8 ∧
    (∀ k : Key, (State.init c).keys[k] = false) ∧
    (State.init c).awaited = none ∧
    (∀ (y : Fin 32) (x : Fin 64), (State.init c).fb[y][x] = false) ∧
    (State.init c).tickAcc = 0 ∧
    (State.init c).clockAcc = 0) ∧
  State.reset = State.init defaultConfig ∧ State.reset.pc = 0x0200#16

/-- The state after reset meets both invariants, whatever the parameters rule R3 allows. -/
def Obligations.ResetMeetsTheInvariants : Prop :=
  (∀ c : Config, c.valid = true → (State.init c).Inv) ∧
  (∀ c : Config, c.resetPc.toNat ≤ 0x1002 → (State.init c).PcInv) ∧
  State.reset.Inv ∧ State.reset.PcInv

/-- R203: a machine that is reset and not loaded faults Unsupported(0x0000) at once, with `pc` at 0x202 (rests on
decisions D3 and D23, log entries 1 and 2; a rule the spec derives). -/
def Obligations.UnloadedMachineFaultsUnsupported : Prop :=
  ∃ u, step State.reset = .fault (.unsupported 0x0000#16 u) ∧ u.pc = 0x0202#16 ∧ u.tickAcc = 60 ∧
    SameBut [.pc, .tick, .started] State.reset u

/-- R201: the reset event puts every element back, memory and program included, whatever the state was (decision D28).
The parameters, the count of draws and the events to come are not the block's and stay (the model's choice, log entry 15). -/
def Obligations.ResetEventRestoresCreation : Prop :=
  ∀ (s : State) (rest : List Event), s.schedule = .reset :: rest →
    ∃ t, step s = .next t ∧ SameBut [.draws, .schedule] (State.init s.cfg) t ∧ t.draws = s.draws ∧ t.schedule = rest

/-! ### Decoding -/

/-- Words written out from the spec's encodings and worked examples (95_test_vectors.md sections 1 and 2, R70;
the numbers are decision D1, log entry 7). -/
def Obligations.SpecWordsDecode : Prop :=
  decodeWord 0x00E0#16 = .ok .clear ∧
  decodeWord 0x00EE#16 = .ok .ret ∧
  decodeWord 0x0000#16 = .ok (.sys 0x000#12) ∧
  decodeWord 0x2ABC#16 = .ok (.call 0xABC#12) ∧
  decodeWord 0x8AB4#16 = .ok (.add 0xA 0xB) ∧
  decodeWord 0xD12A#16 = .ok (.draw 1 2 10) ∧
  decodeWord 0xF165#16 = .ok (.loadRegs 1) ∧
  decodeWord 0xB210#16 = .ok (.jumpV0 0x210#12) ∧
  decodeWord 0xFFFF#16 = .error (.illegal 0xFFFF#16)

/-- R62: the six views are the digits of the word. -/
def Obligations.ViewsAreTheFieldsOfTheWord : Prop :=
  ∀ w : Word,
    (views w).bits = w ∧
    (views w).nnn.toNat = w.toNat % 4096 ∧
    (views w).n.val = w.toNat % 16 ∧
    (views w).x.val = w.toNat / 256 % 16 ∧
    (views w).y.val = w.toNat / 16 % 16 ∧
    (views w).nn.toNat = w.toNat % 256 ∧
    family w = w.toNat / 4096

/-- R69: the dispatcher answers Illegal for exactly the words the rule lists, sys for exactly the Unsupported ones, and a
defined instruction for every other word (the selectors are decision D1, log entry 7). -/
def Obligations.UndefinedWordsAreExactlyThoseListed : Prop :=
  ∀ w : Word,
    (IllegalWord w → decodeWord w = .error (.illegal w)) ∧
    (UnsupportedWord w → ∃ nnn, decodeWord w = .ok (.sys nnn) ∧ nnn.toNat = w.toNat) ∧
    (¬ IllegalWord w → ¬ UnsupportedWord w → ∃ i, decodeWord w = .ok i ∧ ∀ nnn, i ≠ .sys nnn)

/-- R70: the two-level dispatcher and the table of match and mask agree on every word: the first row that covers the word is the
decoded instruction's row, and a word no row covers is Illegal (the map is decision D1, log entry 7). -/
def Obligations.DispatcherAgreesWithOpcodeTable : Prop :=
  ∀ w : Word,
    (∀ i, decodeWord w = .ok i → opcodeTable.findIdx? (fun r => r.covers w) = some i.row) ∧
    (∀ e, decodeWord w = .error e → opcodeTable.findIdx? (fun r => r.covers w) = none)

/-- Decoding the encoded word of any well-formed instruction, from bytes in memory order and with any bytes after it, gives
the instruction back (the words are decision D1; that ignored bits are written 0 is the model's choice, log entry 8). -/
def Obligations.DecodeOfEncodeIsTheInstruction : Prop :=
  ∀ (i : Instr) (rest : List Byte), i.wellFormed = true → decode (encodeBytes i ++ rest) = .ok (i, rest)

/-- The other direction: an instruction read from a word is well formed, and its canonical word agrees with the word in every
bit the decoder looks at (R72, R73 name the bits it ignores; decisions D1 and D2, log entry 7). -/
def Obligations.DecodedInstructionReencodes : Prop :=
  ∀ (w : Word) (i : Instr), decodeWord w = .ok i →
    i.wellFormed = true ∧ (encode i &&& i.readBits) = (w &&& i.readBits)

/-! ### The slice -/

/-- R65, R66, R180: when the bytes at `pc` decode to an instruction, nothing is awaited and the next event is a slice, a step is
`exec` of the instruction at the state after the tick check with `pc` advanced by 2; and what that state is
(the schedule and its default, a slice, are the model's form of the host, log entry 4; the note that a slice has happened is the
model's field, log entry 6; the tick's form is decision D15, log entry 12). -/
def Obligations.StepRunsTheDecodedInstruction : Prop :=
  ∀ (s : State) (i : Instr), SliceNext s → s.awaited = none → s.pc.toNat ≤ 0xFFE →
    decode [s.byteAt s.pc.toNat, s.byteAt (s.pc.toNat + 1)] = .ok (i, []) →
    step s = exec i s.takeEvent.beginSlice.advancePc ∧
    s.takeEvent.beginSlice.advancePc.pc = s.pc + 2 ∧
    s.takeEvent.beginSlice.advancePc.schedule = s.schedule.tail ∧
    s.takeEvent.beginSlice.advancePc.started = true ∧
    s.takeEvent.beginSlice.advancePc.tickAcc = s.tickCheck.tickAcc ∧
    s.takeEvent.beginSlice.advancePc.DT = s.tickCheck.DT ∧
    s.takeEvent.beginSlice.advancePc.ST = s.tickCheck.ST ∧
    SameBut [.pc, .tick, .delay, .sound, .started, .schedule] s s.takeEvent.beginSlice.advancePc

/-- An instruction placed with `withFetchWord` is the one the very next step runs (log entry 10). -/
def Obligations.PlacedWordIsRunNext : Prop :=
  ∀ (s : State) (w : Nat) (i : Instr), s.memWf = true → decodeTableWord 16 w = some i →
    step (s.withFetchWord 16 w) = exec i (s.withFetchWord 16 w).takeEvent.beginSlice.advancePc

/-- R45: the word a cycle decodes is `mem[pc] * 256 + mem[pc + 1]`, the byte at the lower address high, at any `pc` whose two
bytes are in memory, odd ones included (decision D22, log entry 21). A word that does not decode is Illegal (R65, R171). The
slice that runs with nothing scheduled is the model's choice (log entry 4); the state the cycle starts from is the tick check's,
in the form of decision D15 (log entry 12). -/
def Obligations.FetchIsBigEndian : Prop :=
  ∀ (s : State) (w : Word), SliceNext s → s.awaited = none → s.pc.toNat ≤ 0xFFE →
    w.toNat = (s.byteAt s.pc.toNat).toNat * 256 + (s.byteAt (s.pc.toNat + 1)).toNat →
    (∀ i, decodeWord w = .ok i → step s = exec i s.takeEvent.beginSlice.advancePc) ∧
    (∀ e, decodeWord w = .error e → step s = .fault (.illegal w s.takeEvent.beginSlice.advancePc))

/-- R182: a tick takes one from each timer, floor at zero, each independently of the other, and nothing else happens. -/
def Obligations.TickTakesOneFromEachTimer : Prop :=
  ∀ s : State,
    (s.DT = 0x00#8 → s.tick.DT = 0x00#8) ∧ (s.DT ≠ 0x00#8 → s.tick.DT.toNat + 1 = s.DT.toNat) ∧
    (s.ST = 0x00#8 → s.tick.ST = 0x00#8) ∧ (s.ST ≠ 0x00#8 → s.tick.ST.toNat + 1 = s.ST.toNat) ∧
    SameBut [.delay, .sound] s s.tick

/-- R181, R182: the tick divider adds one clock period; when it strictly exceeds one tick period a tick fires and one tick
period is subtracted; a tick takes one from each timer, floor at zero; nothing else changes (integer units: decision D15, log entry 12). -/
def Obligations.TickCheckDividesTheClock : Prop :=
  ∀ s : State,
    (s.cfg.clockHz < s.tickAcc + 60 →
      s.tickCheck.tickAcc + s.cfg.clockHz = s.tickAcc + 60 ∧
      s.tickCheck.DT.toNat = s.DT.toNat - 1 ∧ s.tickCheck.ST.toNat = s.ST.toNat - 1) ∧
    (s.tickAcc + 60 ≤ s.cfg.clockHz →
      s.tickCheck.tickAcc = s.tickAcc + 60 ∧ s.tickCheck.DT = s.DT ∧ s.tickCheck.ST = s.ST) ∧
    SameBut [.tick, .delay, .sound] s s.tickCheck

/-- R180, R184: while a key is awaited a slice does the tick check and nothing else: no fetch, no `pc` change, no register
change. The note that a slice has happened is set (the model's field, log entry 6; the tick check's form is decision D15, log
entry 12). -/
def Obligations.SuspendedSliceOnlyTicks : Prop :=
  ∀ (s : State) (r : Reg), SliceNext s → s.awaited = some r →
    ∃ t, step s = .next t ∧ t.tickAcc = s.tickCheck.tickAcc ∧ t.DT = s.tickCheck.DT ∧ t.ST = s.tickCheck.ST ∧
      t.schedule = s.schedule.tail ∧ t.started = true ∧ SameBut [.tick, .delay, .sound, .started, .schedule] s t

/-- R183: the tick check runs in every slice, whatever its cycle does: the divider afterwards is the checked one, in the next
state and in the state a fault leaves (decision D15, log entry 12). -/
def Obligations.TickCheckRunsInEverySlice : Prop :=
  ∀ s : State, SliceNext s →
    (∀ t, step s = .next t → t.tickAcc = s.tickCheck.tickAcc) ∧
    (∀ f, step s = .fault f → f.after.tickAcc = s.tickCheck.tickAcc ∧ f.after.DT = s.tickCheck.DT ∧
      f.after.ST = s.tickCheck.ST) ∧
    (∀ r, step s ≠ .refused r)

/-- R181, R182, R183: the 60 Hz rate. Over `n` suspended slices from a divider at 0 both timers lose
`(60 * n - 1) / CLOCK_HZ` (0 for `n = 0`), floor at zero: with 540 Hz the ticks fall in slices 10, 19, 28
(decision D15, log entry 12). -/
def Obligations.TimersCountDownAtSixtyHertz : Prop :=
  ∀ (n : Nat) (s : State) (r : Reg), s.cfg.valid = true → s.tickAcc = 0 → s.awaited = some r → s.schedule = [] →
    ∃ t, Sys2Proof.core.run n s = .next t ∧
      t.DT.toNat = s.DT.toNat - (60 * n - 1) / s.cfg.clockHz ∧
      t.ST.toNat = s.ST.toNat - (60 * n - 1) / s.cfg.clockHz ∧
      t.tickAcc + s.cfg.clockHz * ((60 * n - 1) / s.cfg.clockHz) = 60 * n

/-- R47, R172: a fetch outside memory faults with `pc` unchanged, and nothing but the tick check of the slice has happened
(decisions D5 and D25 of the spec, log entry 17). -/
def Obligations.FetchOutsideMemoryFaults : Prop :=
  ∀ s : State, SliceNext s → s.awaited = none → 0xFFF ≤ s.pc.toNat →
    ∃ u, step s = .fault (.addressFault .fetch s.pc u) ∧ SameBut [.tick, .delay, .sound, .started, .schedule] s u

/-- R171: after Illegal and after Unsupported the `pc` is past the word and nothing else of the cycle has happened; the word is
reported. R175: if the host ignores the fault, the machine is in exactly that state (which words are
Illegal: decision D1, log entry 7; the host's choice: decision D17, log entry 5). -/
def Obligations.IllegalAndUnsupportedAdvancePcOnly : Prop :=
  ∀ (s : State) (w : Word), SliceNext s → s.awaited = none → s.pc.toNat ≤ 0xFFE →
    w.toNat = (s.byteAt s.pc.toNat).toNat * 256 + (s.byteAt (s.pc.toNat + 1)).toNat →
    (IllegalWord w → ∃ u, step s = .fault (.illegal w u) ∧ u.pc = s.pc + 2 ∧
      SameBut [.pc, .tick, .delay, .sound, .started, .schedule] s u ∧ (Fault.illegal w u).resume .ignore = some u) ∧
    (UnsupportedWord w → ∃ u, step s = .fault (.unsupported w u) ∧ u.pc = s.pc + 2 ∧
      SameBut [.pc, .tick, .delay, .sound, .started, .schedule] s u ∧ (Fault.unsupported w u).resume .ignore = some u)

/-! ### Screen clear and control transfer -/

/-- R100: clear turns every cell off and changes nothing else. -/
def Obligations.ClearTurnsEveryCellOff : Prop :=
  decodeWord 0x00E0#16 = .ok .clear ∧
  ∀ s : State, ∃ t, exec .clear s = .next t ∧ (∀ (y : Fin 32) (x : Fin 64), t.fb[y][x] = false) ∧ SameBut [.screen] s t

/-- R103, R105: jump sets `pc` to `nnn`; jump-v0 to `(nnn + V[0]) mod 4096`, register 0 whatever the word's `x` digit is
(family numbers: decision D1, log entry 7). -/
def Obligations.JumpsSetTheProgramCounter : Prop :=
  ∀ (nnn : Addr) (s : State),
    (∃ t, exec (.jump nnn) s = .next t ∧ t.pc.toNat = nnn.toNat ∧ SameBut [.pc] s t) ∧
    (∃ t, exec (.jumpV0 nnn) s = .next t ∧ t.pc.toNat = (nnn.toNat + s.V[0].toNat) % 4096 ∧ SameBut [.pc] s t) ∧
    (∀ w : Word, family w = 0x1 → decodeWord w = .ok (.jump (views w).nnn)) ∧
    (∀ w : Word, family w = 0xB → decodeWord w = .ok (.jumpV0 (views w).nnn))

/-- R104: call pushes the address after itself and goes to `nnn`; with 16 addresses held it faults and changes nothing
(decision D6 of the spec, log entry 17; family number: D1, log entry 7). -/
def Obligations.CallPushesTheReturnAddress : Prop :=
  ∀ (nnn : Addr) (s : State),
    (∀ k : Fin 16, s.sp.val = k.val →
      ∃ t, exec (.call nnn) s = .next t ∧ t.stack[k] = s.pc ∧ t.sp.val = s.sp.val + 1 ∧ t.pc.toNat = nnn.toNat ∧
        (∀ j : Fin 16, j ≠ k → t.stack[j] = s.stack[j]) ∧ SameBut [.stack, .sp, .pc] s t) ∧
    (s.sp.val = 16 → exec (.call nnn) s = .fault (.stackOverflow s)) ∧
    (∀ w : Word, family w = 0x2 → decodeWord w = .ok (.call (views w).nnn))

/-- R101: return pops the address into `pc`, all 16 bits, and leaves the slot; with none held it faults and changes nothing
(decision D6 of the spec, log entry 17; selector: D1, log entry 7). -/
def Obligations.ReturnPopsTheReturnAddress : Prop :=
  decodeWord 0x00EE#16 = .ok .ret ∧
  ∀ s : State,
    (∀ k : Fin 16, s.sp.val = k.val + 1 →
      ∃ t, exec .ret s = .next t ∧ t.pc = s.stack[k] ∧ t.sp.val = k.val ∧ SameBut [.sp, .pc] s t) ∧
    (s.sp.val = 0 → exec .ret s = .fault (.stackUnderflow s))

/-- The source's property E5 (R101, R104): a call followed by a return, from whatever `pc` the called code has reached,
restores `pc` to the address after the call and the stack pointer to its value before. -/
def Obligations.ReturnUndoesCall : Prop :=
  ∀ (nnn : Addr) (s t u : State), exec (.call nnn) s = .next t → u.stack = t.stack → u.sp = t.sp →
    ∃ v, exec .ret u = .next v ∧ v.pc = s.pc ∧ v.sp = s.sp

/-- R102: sys always faults Unsupported with its word, and changes nothing in its body; it is what remains of family 0x0
(the selector 0x0EE is decision D1, log entry 7). -/
def Obligations.SysAlwaysFaultsUnsupported : Prop :=
  (∀ (nnn : Addr) (s : State), ∃ w : Word, w.toNat = nnn.toNat ∧ exec (.sys nnn) s = .fault (.unsupported w s)) ∧
  (∀ w : Word, family w = 0x0 → (views w).nnn ≠ 0x0E0#12 → (views w).nnn ≠ 0x0EE#12 →
    decodeWord w = .ok (.sys (views w).nnn))

/-! ### Skips -/

/-- R110 to R113: the compare skips advance `pc` by 2 more exactly when their condition holds, and change nothing else
(family numbers and the ignored low nibble: decisions D1 and D2, log entry 7). -/
def Obligations.CompareSkipsAdvanceWhenConditionHolds : Prop :=
  ∀ (x y : Reg) (nn : Byte) (s : State),
    (∃ t, exec (.skipEqByte x nn) s = .next t ∧ SameBut [.pc] s t ∧
      (s.V[x] = nn → t.pc = s.pc + 2) ∧ (s.V[x] ≠ nn → t.pc = s.pc)) ∧
    (∃ t, exec (.skipNeqByte x nn) s = .next t ∧ SameBut [.pc] s t ∧
      (s.V[x] ≠ nn → t.pc = s.pc + 2) ∧ (s.V[x] = nn → t.pc = s.pc)) ∧
    (∃ t, exec (.skipEq x y) s = .next t ∧ SameBut [.pc] s t ∧
      (s.V[x] = s.V[y] → t.pc = s.pc + 2) ∧ (s.V[x] ≠ s.V[y] → t.pc = s.pc)) ∧
    (∃ t, exec (.skipNeq x y) s = .next t ∧ SameBut [.pc] s t ∧
      (s.V[x] ≠ s.V[y] → t.pc = s.pc + 2) ∧ (s.V[x] = s.V[y] → t.pc = s.pc)) ∧
    (∀ w : Word, family w = 0x3 → decodeWord w = .ok (.skipEqByte (views w).x (views w).nn)) ∧
    (∀ w : Word, family w = 0x4 → decodeWord w = .ok (.skipNeqByte (views w).x (views w).nn)) ∧
    (∀ w : Word, family w = 0x5 → decodeWord w = .ok (.skipEq (views w).x (views w).y)) ∧
    (∀ w : Word, family w = 0x9 → decodeWord w = .ok (.skipNeq (views w).x (views w).y))

/-- R114, R115: the key skips look at the key numbered by the VALUE of `V[x]`; a value above 15 faults and changes nothing
(decision D7 of the spec, log entry 17; selectors: D1, log entry 7). -/
def Obligations.KeySkipsLookAtTheKeyTable : Prop :=
  ∀ (x : Reg) (s : State),
    (∀ k : Key, s.V[x].toNat = k.val →
      (∃ t, exec (.skipPressed x) s = .next t ∧ SameBut [.pc] s t ∧
        (s.keys[k] = true → t.pc = s.pc + 2) ∧ (s.keys[k] = false → t.pc = s.pc)) ∧
      (∃ t, exec (.skipNotPressed x) s = .next t ∧ SameBut [.pc] s t ∧
        (s.keys[k] = false → t.pc = s.pc + 2) ∧ (s.keys[k] = true → t.pc = s.pc))) ∧
    (15 < s.V[x].toNat →
      exec (.skipPressed x) s = .fault (.keyIndexFault s.V[x] s) ∧
      exec (.skipNotPressed x) s = .fault (.keyIndexFault s.V[x] s)) ∧
    (∀ w : Word, family w = 0xE → (views w).nn = 0x9E#8 → decodeWord w = .ok (.skipPressed (views w).x)) ∧
    (∀ w : Word, family w = 0xE → (views w).nn = 0xA1#8 → decodeWord w = .ok (.skipNotPressed (views w).x))

/-! ### Load, arithmetic, bitwise, shift, random -/

/-- R120, R121: set-byte and add-byte write `V[x]` only; the sum wraps and no flag is written (family
numbers: decision D1, log entry 7). -/
def Obligations.ByteImmediatesWriteTheirRegister : Prop :=
  ∀ (x : Reg) (nn : Byte) (s : State),
    (∃ t, exec (.setByte x nn) s = .next t ∧ t.V[x] = nn ∧ RegsSameBut [x] s t ∧ SameBut [.regs] s t) ∧
    (∃ t, exec (.addByte x nn) s = .next t ∧ t.V[x].toNat = (s.V[x].toNat + nn.toNat) % 256 ∧ RegsSameBut [x] s t ∧
      SameBut [.regs] s t) ∧
    (∀ w : Word, family w = 0x6 → decodeWord w = .ok (.setByte (views w).x (views w).nn)) ∧
    (∀ w : Word, family w = 0x7 → decodeWord w = .ok (.addByte (views w).x (views w).nn))

/-- R122 to R125: copy and the bitwise operations, bit by bit; only `V[x]` is written, so `VF` is kept unless `x = 15`
(selectors: decision D1, log entry 7). -/
def Obligations.BitwiseOperationsWriteTheirRegister : Prop :=
  ∀ (x y : Reg) (s : State),
    (∃ t, exec (.setReg x y) s = .next t ∧ t.V[x] = s.V[y] ∧ RegsSameBut [x] s t ∧ SameBut [.regs] s t) ∧
    (∃ t, exec (.or x y) s = .next t ∧ (∀ b : Fin 8, t.V[x][b] = (s.V[x][b] || s.V[y][b])) ∧ RegsSameBut [x] s t ∧
      SameBut [.regs] s t) ∧
    (∃ t, exec (.and x y) s = .next t ∧ (∀ b : Fin 8, t.V[x][b] = (s.V[x][b] && s.V[y][b])) ∧ RegsSameBut [x] s t ∧
      SameBut [.regs] s t) ∧
    (∃ t, exec (.xor x y) s = .next t ∧ (∀ b : Fin 8, t.V[x][b] = (s.V[x][b] != s.V[y][b])) ∧ RegsSameBut [x] s t ∧
      SameBut [.regs] s t) ∧
    (∀ w : Word, family w = 0x8 →
      ((views w).n = 0x0 → decodeWord w = .ok (.setReg (views w).x (views w).y)) ∧
      ((views w).n = 0x1 → decodeWord w = .ok (.or (views w).x (views w).y)) ∧
      ((views w).n = 0x2 → decodeWord w = .ok (.and (views w).x (views w).y)) ∧
      ((views w).n = 0x3 → decodeWord w = .ok (.xor (views w).x (views w).y)))

/-- R126 (and R131 for `x = 15`): the wrapping sum into `V[x]`, then 1 into `VF` exactly when the sum exceeds 255
(order of the writes: decision D8, log entry 18; selector: D1, log entry 7). -/
def Obligations.AddWrapsAndFlagsTheCarry : Prop :=
  ∀ (x y : Reg) (s : State),
    (∃ t, exec (.add x y) s = .next t ∧
      (x ≠ 15 → t.V[x].toNat = (s.V[x].toNat + s.V[y].toNat) % 256) ∧
      t.V[15] = (if 255 < s.V[x].toNat + s.V[y].toNat then 0x01#8 else 0x00#8) ∧
      RegsSameBut [x, 15] s t ∧ SameBut [.regs] s t) ∧
    (∀ w : Word, family w = 0x8 → (views w).n = 0x4 → decodeWord w = .ok (.add (views w).x (views w).y))

/-- R127, R128 (and R131 for `x = 15`): the wrapping difference into `V[x]`, then 1 into `VF` exactly when the minuend is
strictly the larger (equal operands give 0, conflict C5; order of the writes: decision D8, log entry 18; selectors: D1, log
entry 7). -/
def Obligations.SubtractWrapsAndFlagsStrictly : Prop :=
  ∀ (x y : Reg) (s : State),
    (∃ t, exec (.sub x y) s = .next t ∧
      (x ≠ 15 → t.V[x].toNat = (s.V[x].toNat + 256 - s.V[y].toNat) % 256) ∧
      t.V[15] = (if s.V[y].toNat < s.V[x].toNat then 0x01#8 else 0x00#8) ∧
      RegsSameBut [x, 15] s t ∧ SameBut [.regs] s t) ∧
    (∃ t, exec (.subn x y) s = .next t ∧
      (x ≠ 15 → t.V[x].toNat = (s.V[y].toNat + 256 - s.V[x].toNat) % 256) ∧
      t.V[15] = (if s.V[x].toNat < s.V[y].toNat then 0x01#8 else 0x00#8) ∧
      RegsSameBut [x, 15] s t ∧ SameBut [.regs] s t) ∧
    (∀ w : Word, family w = 0x8 → (views w).n = 0x5 → decodeWord w = .ok (.sub (views w).x (views w).y)) ∧
    (∀ w : Word, family w = 0x8 → (views w).n = 0x7 → decodeWord w = .ok (.subn (views w).x (views w).y))

/-- R129, R130 (and R131 for `x = 15`): the bit shifted out into `VF`, then the shifted value into `V[x]`, which stands when
`x = 15`; the `y` digit is ignored (R73; order of the writes: decision D8, log entry 18; selectors: D1, log entry 7). -/
def Obligations.ShiftsMoveOneBitIntoTheFlag : Prop :=
  ∀ (x : Reg) (s : State),
    (∃ t, exec (.shiftRight x) s = .next t ∧ t.V[x].toNat = s.V[x].toNat / 2 ∧
      (x ≠ 15 → t.V[15].toNat = s.V[x].toNat % 2) ∧ RegsSameBut [x, 15] s t ∧ SameBut [.regs] s t) ∧
    (∃ t, exec (.shiftLeft x) s = .next t ∧ t.V[x].toNat = s.V[x].toNat * 2 % 256 ∧
      (x ≠ 15 → t.V[15].toNat = s.V[x].toNat / 128) ∧ RegsSameBut [x, 15] s t ∧ SameBut [.regs] s t) ∧
    (∀ w : Word, family w = 0x8 → (views w).n = 0x6 → decodeWord w = .ok (.shiftRight (views w).x)) ∧
    (∀ w : Word, family w = 0x8 → (views w).n = 0xE → decodeWord w = .ok (.shiftLeft (views w).x))

/-- R132: rand writes a drawn byte AND `nn`, whatever the byte is: bits where `nn` has 0 are 0, the others are the free byte's.
The free byte and the count of draws are the model's own form of decision D14 (log entry 3). -/
def Obligations.RandMasksAFreshByte : Prop :=
  ∀ (x : Reg) (nn : Byte) (s : State),
    (∃ t, exec (.rand x nn) s = .next t ∧
      (∀ b : Fin 8, nn[b] = false → t.V[x][b] = false) ∧
      (∀ b : Fin 8, nn[b] = true → t.V[x][b] = (Config.rand8 s.draws)[b]) ∧
      RegsSameBut [x] s t ∧ t.draws = s.draws + 1 ∧ SameBut [.regs, .draws] s t) ∧
    (∀ w : Word, family w = 0xC → decodeWord w = .ok (.rand (views w).x (views w).nn))

/-! ### Index register and memory transfer -/

/-- R140 to R142: the three writers of `I`; add-index wraps modulo 65536, set-char is 5 times the low nibble
(the wrap is decision D9, log entry 19; numbers: D1, log entry 7). -/
def Obligations.IndexInstructionsSetTheIndex : Prop :=
  ∀ (x : Reg) (nnn : Addr) (s : State),
    (∃ t, exec (.setIndex nnn) s = .next t ∧ t.I.toNat = nnn.toNat ∧ SameBut [.index] s t) ∧
    (∃ t, exec (.addIndex x) s = .next t ∧ t.I.toNat = (s.I.toNat + s.V[x].toNat) % 65536 ∧ SameBut [.index] s t) ∧
    (∃ t, exec (.setChar x) s = .next t ∧ t.I.toNat = 5 * (s.V[x].toNat % 16) ∧ SameBut [.index] s t) ∧
    (∀ w : Word, family w = 0xA → decodeWord w = .ok (.setIndex (views w).nnn)) ∧
    (∀ w : Word, family w = 0xF → (views w).nn = 0x1E#8 → decodeWord w = .ok (.addIndex (views w).x)) ∧
    (∀ w : Word, family w = 0xF → (views w).nn = 0x29#8 → decodeWord w = .ok (.setChar (views w).x))

/-- R143: the three decimal digits of `V[x]` at `I`, `I + 1`, `I + 2`, and no other byte; out of range it faults before any
write (the fault is decision D5, log entry 17; selector: D1, log entry 7; the digits: conflict C6). -/
def Obligations.StoreBcdStoresTheDigits : Prop :=
  ∀ (x : Reg) (s : State),
    (s.memWf = true → s.base + 2 ≤ 0xFFF →
      ∃ t, exec (.storeBcd x) s = .next t ∧
        (t.byteAt s.base).toNat = s.V[x].toNat / 100 ∧
        (t.byteAt (s.base + 1)).toNat = s.V[x].toNat / 10 % 10 ∧
        (t.byteAt (s.base + 2)).toNat = s.V[x].toNat % 10 ∧
        BytesSameBut s.base 3 s t ∧ SameBut [.mem] s t) ∧
    (0xFFF < s.base + 2 → exec (.storeBcd x) s = .fault (.addressFault .write s.I s)) ∧
    (∀ w : Word, family w = 0xF → (views w).nn = 0x33#8 → decodeWord w = .ok (.storeBcd (views w).x))

/-- R144: `V[0]` to `V[x]` at `I` to `I + x`, and no other byte; out of range it faults before any write
(decision D5, log entry 17; `I` unchanged: D10, log entry 19; selector: D1, log entry 7). -/
def Obligations.StoreRegsStoresTheBlock : Prop :=
  ∀ (x : Reg) (s : State),
    (s.memWf = true → s.base + x.val ≤ 0xFFF →
      ∃ t, exec (.storeRegs x) s = .next t ∧
        (∀ k : Reg, k ≤ x → t.byteAt (s.base + k.val) = s.V[k]) ∧
        BytesSameBut s.base (x.val + 1) s t ∧ SameBut [.mem] s t) ∧
    (0xFFF < s.base + x.val → exec (.storeRegs x) s = .fault (.addressFault .write s.I s)) ∧
    (∀ w : Word, family w = 0xF → (views w).nn = 0x55#8 → decodeWord w = .ok (.storeRegs (views w).x))

/-- R145: memory at `I` to `I + x` into `V[0]` to `V[x]`, and no other register; out of range it faults before any write
(decision D5, log entry 17; `I` unchanged: D10, log entry 19; selector: D1, log entry 7). -/
def Obligations.LoadRegsLoadsTheBlock : Prop :=
  ∀ (x : Reg) (s : State),
    (s.base + x.val ≤ 0xFFF →
      ∃ t, exec (.loadRegs x) s = .next t ∧
        (∀ k : Reg, k ≤ x → t.V[k] = s.byteAt (s.base + k.val)) ∧
        (∀ k : Reg, x < k → t.V[k] = s.V[k]) ∧ SameBut [.regs] s t) ∧
    (0xFFF < s.base + x.val → exec (.loadRegs x) s = .fault (.addressFault .read s.I s)) ∧
    (∀ w : Word, family w = 0xF → (views w).nn = 0x65#8 → decodeWord w = .ok (.loadRegs (views w).x))

/-- R52: stores are seen by the next fetch. A store-regs over the bytes at `pc` makes the next step run the instruction whose
bytes were in the registers. -/
def Obligations.StoredBytesAreFetchedNext : Prop :=
  ∀ (x : Reg) (i : Instr) (s t : State), s.memWf = true → exec (.storeRegs x) s = .next t → s.base = s.pc.toNat → 1 ≤ x.val →
    s.awaited = none → s.schedule = [] → decode [s.V[0], s.V[1]] = .ok (i, []) →
    step t = exec i t.takeEvent.beginSlice.advancePc

/-! ### Draw -/

/-- R150, R152: draw flips exactly the cells the sprite covers, wrapping on both axes, and changes no other cell; it always
writes `VF`, which is 1 exactly when some covered cell made the transition that `DRAW_FLAG` names (R153; the bit order
of a sprite, the wrap per pixel and the parameter are decisions D11, D12, D13, log entry 20). -/
def Obligations.DrawFlipsTheCoveredCells : Prop :=
  ∀ (x y : Reg) (n : Fin 16) (s : State), n.val = 0 ∨ s.base + n.val - 1 ≤ 0xFFF →
    ∃ t, exec (.draw x y n) s = .next t ∧
      (∀ (py : Fin 32) (px : Fin 64),
        (SpriteCovers s x y n.val py px → t.fb[py][px] = !s.fb[py][px]) ∧
        (¬ SpriteCovers s x y n.val py px → t.fb[py][px] = s.fb[py][px])) ∧
      ((∃ (py : Fin 32) (px : Fin 64), SpriteCovers s x y n.val py px ∧ FlagTransition s.cfg.drawFlag s.fb[py][px]) →
        t.V[15] = 0x01#8) ∧
      (¬ (∃ (py : Fin 32) (px : Fin 64), SpriteCovers s x y n.val py px ∧ FlagTransition s.cfg.drawFlag s.fb[py][px]) →
        t.V[15] = 0x00#8) ∧
      RegsSameBut [15] s t ∧ SameBut [.screen, .regs] s t

/-- R155 (1): executing the same draw twice, with the coordinates unchanged, restores the framebuffer exactly. The
faulting forms do not reach it (decision D5, log entry 17). -/
def Obligations.DrawTwiceRestoresTheScreen : Prop :=
  ∀ (x y : Reg) (n : Fin 16) (s t : State), exec (.draw x y n) s = .next t → t.V[x] = s.V[x] → t.V[y] = s.V[y] →
    ∃ u, exec (.draw x y n) t = .next u ∧ ∀ (py : Fin 32) (px : Fin 64), u.fb[py][px] = s.fb[py][px]

/-- R150, R154: a sprite that runs past 0xFFF faults and changes nothing; one of no rows draws nothing, reads nothing and
clears `VF`, whatever `I` is; and draw's words (decisions D5 and D12, log entries 17 and 20; D1, log entry 7). -/
def Obligations.DrawAtTheEdgeOfMemory : Prop :=
  ∀ (x y : Reg) (n : Fin 16) (s : State),
    (0 < n.val → 0xFFF < s.base + n.val - 1 → exec (.draw x y n) s = .fault (.addressFault .read s.I s)) ∧
    (∃ t, exec (.draw x y 0) s = .next t ∧ t.V[15] = 0x00#8 ∧ RegsSameBut [15] s t ∧ SameBut [.regs] s t) ∧
    (∀ w : Word, family w = 0xD → decodeWord w = .ok (.draw (views w).x (views w).y (views w).n))

/-! ### Timers and keys -/

/-- R160 to R162: the delay timer is read into and loaded from `V[x]`, the sound timer loaded; the divider is not reset
(selectors: decision D1, log entry 7). -/
def Obligations.TimerInstructionsMoveTheTimers : Prop :=
  ∀ (x : Reg) (s : State),
    (∃ t, exec (.getDelay x) s = .next t ∧ t.V[x] = s.DT ∧ RegsSameBut [x] s t ∧ SameBut [.regs] s t) ∧
    (∃ t, exec (.setDelay x) s = .next t ∧ t.DT = s.V[x] ∧ SameBut [.delay] s t) ∧
    (∃ t, exec (.setSound x) s = .next t ∧ t.ST = s.V[x] ∧ SameBut [.sound] s t) ∧
    (∀ w : Word, family w = 0xF → (views w).nn = 0x07#8 → decodeWord w = .ok (.getDelay (views w).x)) ∧
    (∀ w : Word, family w = 0xF → (views w).nn = 0x15#8 → decodeWord w = .ok (.setDelay (views w).x)) ∧
    (∀ w : Word, family w = 0xF → (views w).nn = 0x18#8 → decodeWord w = .ok (.setSound (views w).x))

/-- R163: await-key only asks for the key; it completes at once and writes no register (selector: decision D1, log
entry 7). -/
def Obligations.AwaitKeySuspends : Prop :=
  ∀ (x : Reg) (s : State),
    (∃ t, exec (.awaitKey x) s = .next t ∧ t.awaited = some x ∧ SameBut [.awaited] s t) ∧
    (∀ w : Word, family w = 0xF → (views w).nn = 0x0A#8 → decodeWord w = .ok (.awaitKey (views w).x))

/-- R186, R187: press sets the key's flag and, if a key is awaited, writes the code into the awaited register and ends the wait;
release clears the flag and nothing else. That the press of a held key resolves the wait, and at the event, is decision D26, and
that no code is above 15 decision D21 (log entry 22); that the other events stay in the schedule is the model's choice (log
entry 4). -/
def Obligations.PressAndReleaseUpdateTheKeys : Prop :=
  ∀ (k : Key) (s : State) (rest : List Event),
    (s.schedule = .press k :: rest → s.awaited = none →
      ∃ t, step s = .next t ∧ t.keys[k] = true ∧ (∀ j : Key, j ≠ k → t.keys[j] = s.keys[j]) ∧ t.schedule = rest ∧
        SameBut [.keys, .schedule] s t) ∧
    (∀ r : Reg, s.schedule = .press k :: rest → s.awaited = some r →
      ∃ t, step s = .next t ∧ t.keys[k] = true ∧ (∀ j : Key, j ≠ k → t.keys[j] = s.keys[j]) ∧ t.V[r].toNat = k.val ∧
        RegsSameBut [r] s t ∧ t.awaited = none ∧ t.schedule = rest ∧ SameBut [.keys, .regs, .awaited, .schedule] s t) ∧
    (s.schedule = .release k :: rest →
      ∃ t, step s = .next t ∧ t.keys[k] = false ∧ (∀ j : Key, j ≠ k → t.keys[j] = s.keys[j]) ∧ t.schedule = rest ∧
        SameBut [.keys, .schedule] s t)

/-- The source's property E7 (R163, R184, R186): however many slices pass, a suspended machine keeps its `pc` and registers, and
the press that comes then writes the key code into the target register and lets execution resume (that
a held key does not end the wait is decision D26, log entry 22). -/
def Obligations.WaitLastsUntilThePress : Prop :=
  ∀ (n : Nat) (r : Reg) (k : Key) (s : State), s.awaited = some r → s.schedule = [] →
    ∃ t, Sys2Proof.core.run n s = .next t ∧ t.awaited = some r ∧
      SameBut [.tick, .delay, .sound, .started] s t ∧
      ∃ u, deliver (.press k) t = .next u ∧ u.V[r].toNat = k.val ∧ RegsSameBut [r] s u ∧ u.pc = s.pc ∧ u.awaited = none

/-- R188: reading the pixels is a view without effect: 32 rows of 64 cells, row 0 first. The view as a list, and the event
as one that changes nothing but the schedule, are the model's reading (log entry 13, DEDUCED); the schedule is the model's choice
(log entry 4). -/
def Obligations.PixelsIsAReadOnlyView : Prop :=
  ∀ (s : State) (rest : List Event),
    (s.schedule = .pixels :: rest → ∃ t, step s = .next t ∧ t.schedule = rest ∧ SameBut [.schedule] s t) ∧
    s.pixels.length = 32 ∧
    (∀ (y : Fin 32) (x : Fin 64), (s.pixels[y.val]?).bind (fun row => row[x.val]?) = some s.fb[y][x]) ∧
    (∀ row ∈ s.pixels, row.length = 64)

/-! ### Loading and the step wrapper -/

/-- R204, R205: before the first slice, load copies the image from 0x200 on and touches nothing else; an image of more than 3584
bytes fails, with the first 3584 copied. That load has its move only before the first slice is decision D27 (log entry 6), narrower
than R204; the canonical memory of the premise is the model's form (log entry 1) and the schedule the model's choice (log
entry 4). -/
def Obligations.LoadCopiesTheImage : Prop :=
  ∀ (b : List Byte) (s : State) (rest : List Event), s.memWf = true → s.started = false → s.schedule = .load b :: rest →
    (b.length ≤ 3584 →
      ∃ t, step s = .next t ∧ (∀ k : Fin b.length, t.byteAt (0x200 + k.val) = b[k]) ∧
        BytesSameBut 0x200 b.length s t ∧ t.schedule = rest ∧ SameBut [.mem, .schedule] s t) ∧
    (3584 < b.length →
      ∃ u, step s = .fault (.oversizedProgram u) ∧
        (∀ k : Fin b.length, k.val < 3584 → u.byteAt (0x200 + k.val) = b[k]) ∧
        BytesSameBut 0x200 3584 s u ∧ u.schedule = rest ∧ SameBut [.mem, .schedule] s u)

/-- R206: load has a move only between reset and the first slice. Every slice, whatever it does, ends that time; the reset event
opens it again (the refusal is the model's form of "no move", log entry 6). -/
def Obligations.LoadHasNoMoveAfterTheFirstSlice : Prop :=
  (∀ (b : List Byte) (s : State) (rest : List Event), s.started = true → s.schedule = .load b :: rest →
    step s = .refused .loadAfterStart) ∧
  (∀ s : State, SliceNext s → (∀ t, step s = .next t → t.started = true) ∧ (∀ f, step s = .fault f → f.after.started = true)) ∧
  (∀ (s t : State) (rest : List Event), s.schedule = .reset :: rest → step s = .next t → t.started = false)

/-- R208: the step wrapper, with any events behind the call. When `n` whole clock periods have accumulated, the call completes
as `n` slices do, the time less `n` periods; when `m` slices complete and the next one, among the `n`, faults, that fault is the
outcome, and the time kept is less exactly the `m + 1` periods consumed (exact rationals and the comparison `>=` are decision
D16, log entry 11; the events behind the call and one step a call are the model's form, log entries 4 and 14). -/
def Obligations.ElapseRunsTheWholePeriods : Prop :=
  ∀ (e : Rat) (n : Nat) (s : State) (rest : List Event), s.schedule = .elapse e :: rest → s.cfg.valid = true →
    0 ≤ e → 0 ≤ s.clockAcc →
    (n : Rat) ≤ (s.clockAcc + e) * s.cfg.clockHz → (s.clockAcc + e) * s.cfg.clockHz < n + 1 →
    (∀ u, Sys2Proof.core.run n { s with schedule := [] } = .next u →
      step s = .next { u with clockAcc := s.clockAcc + e - n / s.cfg.clockHz, schedule := rest }) ∧
    (∀ (m : Nat) (t : State) (f : Fault), m < n → Sys2Proof.core.run m { s with schedule := [] } = .next t →
      step t = .fault f →
      step s = .fault (f.mapAfter (fun u =>
        { u with clockAcc := s.clockAcc + e - (m + 1 : Nat) / s.cfg.clockHz, schedule := rest })))

/-! ### Whole-machine rules -/

/-- The invariant of the data is kept by every step, and by the state every fault leaves (a statement about the model's own
data: log entries 1, 11 and 12). -/
def Obligations.StepKeepsTheInvariant : Prop :=
  ∀ s : State, s.Inv → (∀ t, step s = .next t → t.Inv) ∧ (∀ f, step s = .fault f → f.after.Inv)

/-- R17: the program counter stays in 0x0000 to 0x1002, and every return address at or below 0x1000
(the spec derives it; the parameter's value is decision D3, log entry 2). -/
def Obligations.StepKeepsTheProgramCounterInRange : Prop :=
  ∀ s : State, s.PcInv → (∀ t, step s = .next t → t.PcInv) ∧ (∀ f, step s = .fault f → f.after.PcInv)

/-- R14: `VF` is written as a side effect by add, sub, subn, shift-right, shift-left and draw, with 0 or 1, and otherwise only as
the destination an instruction names. -/
def Obligations.FlagHasExactlySixSideEffectWriters : Prop :=
  ∀ (i : Instr) (s t : State), exec i s = .next t →
    (match i with
      | .add _ _ | .sub _ _ | .subn _ _ | .draw _ _ _ => t.V[15] = 0x00#8 ∨ t.V[15] = 0x01#8
      | .shiftRight x | .shiftLeft x => x ≠ 15 → t.V[15] = 0x00#8 ∨ t.V[15] = 0x01#8
      | .setByte x _ | .addByte x _ | .setReg x _ | .or x _ | .and x _ | .xor x _ | .rand x _ | .getDelay x | .loadRegs x =>
        x ≠ 15 → t.V[15] = s.V[15]
      | .clear | .ret | .sys _ | .jump _ | .call _ | .skipEqByte _ _ | .skipNeqByte _ _ | .skipEq _ _ | .skipNeq _ _
      | .setIndex _ | .jumpV0 _ | .skipPressed _ | .skipNotPressed _ | .awaitKey _ | .setDelay _ | .setSound _ | .addIndex _
      | .setChar _ | .storeBcd _ | .storeRegs _ => t.V[15] = s.V[15])

/-- R15, R18, R20 to R23, R40: each element of the state has only the writers its rule names, over all instructions. -/
def Obligations.EachElementHasOnlyItsWriters : Prop :=
  ∀ (i : Instr) (s t : State), exec i s = .next t →
    ((∀ n, i ≠ .setIndex n) → (∀ x, i ≠ .addIndex x) → (∀ x, i ≠ .setChar x) → t.I = s.I) ∧
    ((∀ n, i ≠ .call n) → t.stack = s.stack) ∧
    ((∀ n, i ≠ .call n) → i ≠ .ret → t.sp = s.sp) ∧
    ((∀ x, i ≠ .setDelay x) → t.DT = s.DT) ∧
    ((∀ x, i ≠ .setSound x) → t.ST = s.ST) ∧
    t.keys = s.keys ∧
    ((∀ x, i ≠ .awaitKey x) → t.awaited = s.awaited) ∧
    (i ≠ .clear → (∀ x y n, i ≠ .draw x y n) → t.fb = s.fb) ∧
    ((∀ x, i ≠ .storeBcd x) → (∀ x, i ≠ .storeRegs x) → t.mem = s.mem) ∧
    ((∀ x nn, i ≠ .rand x nn) → t.draws = s.draws) ∧
    t.tickAcc = s.tickAcc ∧ t.clockAcc = s.clockAcc ∧ t.cfg = s.cfg ∧ t.started = s.started ∧ t.schedule = s.schedule

/-- R16: how each instruction leaves `pc`: only the six skips, jump, call, return and jump-v0 change it from the advanced one. -/
def Obligations.ProgramCounterAfterEachInstruction : Prop :=
  ∀ (i : Instr) (s t : State), exec i s = .next t →
    (match i with
      | .jump nnn | .call nnn => t.pc.toNat = nnn.toNat
      | .jumpV0 nnn => t.pc.toNat = (nnn.toNat + s.V[0].toNat) % 4096
      | .ret => ∃ k : Fin 16, s.sp.val = k.val + 1 ∧ t.pc = s.stack[k]
      | .skipEqByte _ _ | .skipNeqByte _ _ | .skipEq _ _ | .skipNeq _ _ | .skipPressed _ | .skipNotPressed _ =>
        t.pc = s.pc ∨ t.pc = s.pc + 2
      | .clear | .sys _ | .setByte _ _ | .addByte _ _ | .setReg _ _ | .or _ _ | .and _ _ | .xor _ _ | .add _ _ | .sub _ _
      | .shiftRight _ | .subn _ _ | .shiftLeft _ | .setIndex _ | .rand _ _ | .draw _ _ _ | .getDelay _ | .awaitKey _
      | .setDelay _ | .setSound _ | .addIndex _ | .setChar _ | .storeBcd _ | .storeRegs _ | .loadRegs _ => t.pc = s.pc)

/-- R171, R172: faults are precise. Whatever instruction faults, its body has changed nothing; and no instruction is refused
(the spec-added faults are decisions D5, D6, D7, D25, log entry 17). -/
def Obligations.FaultingInstructionChangesNothing : Prop :=
  ∀ (i : Instr) (s : State), (∀ f, exec i s = .fault f → f.after = s) ∧ (∀ r, exec i s ≠ .refused r)

/-- R173: an instruction can raise one kind of fault only, the one its family's table names (a rule the spec derives;
decisions D5, D6, D7, log entry 17). -/
def Obligations.EachInstructionRaisesOnlyItsFault : Prop :=
  ∀ (i : Instr) (s : State) (f : Fault), exec i s = .fault f →
    (match i with
      | .ret => f = .stackUnderflow s
      | .call _ => f = .stackOverflow s
      | .sys nnn => f = .unsupported (encode (.sys nnn)) s
      | .skipPressed x | .skipNotPressed x => f = .keyIndexFault s.V[x] s
      | .storeBcd _ | .storeRegs _ => f = .addressFault .write s.I s
      | .loadRegs _ | .draw _ _ _ => f = .addressFault .read s.I s
      | .clear | .jump _ | .skipEqByte _ _ | .skipNeqByte _ _ | .skipEq _ _ | .setByte _ _ | .addByte _ _ | .setReg _ _
      | .or _ _ | .and _ _ | .xor _ _ | .add _ _ | .sub _ _ | .shiftRight _ | .subn _ _ | .shiftLeft _ | .skipNeq _ _
      | .setIndex _ | .jumpV0 _ | .rand _ _ | .getDelay _ | .awaitKey _ | .setDelay _ | .setSound _ | .addIndex _
      | .setChar _ => False)

/-- R212: a jump to its own address is the end of a run: from then on every slice completes and only the tick divider and the
timers change (decision D29 of the spec; the note that a slice has happened is the model's field, log entry 6). -/
def Obligations.SelfJumpEndsTheRun : Prop :=
  ∀ (n : Nat) (nnn : Addr) (s : State), s.pc = nnn.setWidth 16 → nnn.toNat ≤ 0xFFE → s.awaited = none → s.schedule = [] →
    decode [s.byteAt s.pc.toNat, s.byteAt (s.pc.toNat + 1)] = .ok (.jump nnn, []) →
    ∃ t, Sys2Proof.core.run n s = .next t ∧ SameBut [.tick, .delay, .sound, .started] s t
end

