-- ==== Sys2Proof/Laws/Decode.lean ====
section
/-! SUPPORT. Words as numbers: the fields of a word, the masks of the opcode table, and the words the encoder's formats make,
each said as arithmetic on `toNat`, so that claims about encodings are closed by `omega`. -/

namespace Sys2Proof

/-- A nibble as a digit of the word. -/
theorem nibbleAt_val (w : Word) (lo : Nat) : (nibbleAt w lo).val = w.toNat / 2 ^ lo % 16 := by
  simp [nibbleAt, BitVec.extractLsb'_toNat, Nat.shiftRight_eq_div_pow]

/-- The first-level mask keeps the family digit. -/
theorem toNat_and_F000 (w : Word) : (w &&& 0xF000#16).toNat = w.toNat / 4096 * 4096 := by
  have h : w &&& 0xF000#16 = (w >>> 12) <<< 12 := by
    apply BitVec.eq_of_getLsbD_eq; intro i hi
    interval_cases i <;> simp
  rw [h]; simp [Nat.shiftRight_eq_div_pow, Nat.shiftLeft_eq]; omega

/-- The mask of family 0x8 keeps the family digit and the low digit. -/
theorem toNat_and_F00F (w : Word) : (w &&& 0xF00F#16).toNat = w.toNat / 4096 * 4096 + w.toNat % 16 := by
  have h : w &&& 0xF00F#16 = (w &&& 0xF000#16) + (w <<< 12) >>> 12 := by
    rw [BitVec.add_eq_or_of_and_eq_zero]
    all_goals
      apply BitVec.eq_of_getLsbD_eq; intro i hi
      interval_cases i <;> simp
  rw [h, BitVec.toNat_add, toNat_and_F000]; simp [Nat.shiftRight_eq_div_pow, Nat.shiftLeft_eq]; omega

/-- The mask of families 0xE and 0xF keeps the family digit and the low byte. -/
theorem toNat_and_F0FF (w : Word) : (w &&& 0xF0FF#16).toNat = w.toNat / 4096 * 4096 + w.toNat % 256 := by
  have h : w &&& 0xF0FF#16 = (w &&& 0xF000#16) + (w <<< 8) >>> 8 := by
    rw [BitVec.add_eq_or_of_and_eq_zero]
    all_goals
      apply BitVec.eq_of_getLsbD_eq; intro i hi
      interval_cases i <;> simp
  rw [h, BitVec.toNat_add, toNat_and_F000]; simp [Nat.shiftRight_eq_div_pow, Nat.shiftLeft_eq]; omega

/-- The word of two bytes as a number (rule R45: `mem[pc] * 256 + mem[pc + 1]`). -/
theorem toNat_wordOfBytes (hi lo : Byte) : (wordOfBytes hi lo).toNat = hi.toNat * 256 + lo.toNat := by
  change (hi ++ lo : BitVec (8 + 8)).toNat = _
  rw [BitVec.toNat_append, Nat.shiftLeft_eq, Nat.mul_comm, ← Nat.two_pow_add_eq_or_of_lt lo.isLt]

/-- Putting the two stored bytes of a word together gives the word (rule R45). -/
theorem wordOfBytes_hi_lo (w : Word) : wordOfBytes (hiByte w) (loByte w) = w := by
  apply BitVec.eq_of_toNat_eq
  rw [toNat_wordOfBytes]
  simp [hiByte, loByte, BitVec.extractLsb'_toNat, Nat.shiftRight_eq_div_pow]; omega

theorem toNat_formNNN {f : Nat} (hf : f < 16) (nnn : Addr) : (formNNN f nnn).toNat = f * 4096 + nnn.toNat := by
  simp [formNNN]; omega

theorem toNat_formXNN {f : Nat} (hf : f < 16) (x : Reg) (nn : Byte) :
    (formXNN f x nn).toNat = f * 4096 + x.val * 256 + nn.toNat := by
  simp [formXNN]; omega

theorem toNat_formXYN {f : Nat} (hf : f < 16) (x y : Reg) (n : Fin 16) :
    (formXYN f x y n).toNat = f * 4096 + x.val * 256 + y.val * 16 + n.val := by
  simp [formXYN]; omega

end Sys2Proof
end

