-- ==== Sys2Proof/Laws/State.lean ====
section
/-! SUPPORT. One lemma per field per update of the state, true by `rfl` and tagged `@[simp]`, so that no later proof unfolds a
record update; and the tick check, the start of a slice, the byte read and the register read over those updates. -/

namespace Sys2Proof.Machine

variable (s : State)

/-- The register read is the register file's element. -/
@[simp] theorem State.reg_eq (r : Reg) : s.reg r = s.V[r] := rfl

/-! ### `setV` -/

@[simp] theorem State.setV_mem (r : Reg) (v : Byte) : (s.setV r v).mem = s.mem := rfl
@[simp] theorem State.setV_V (r : Reg) (v : Byte) : (s.setV r v).V = s.V.set r v := rfl
@[simp] theorem State.setV_I (r : Reg) (v : Byte) : (s.setV r v).I = s.I := rfl
@[simp] theorem State.setV_pc (r : Reg) (v : Byte) : (s.setV r v).pc = s.pc := rfl
@[simp] theorem State.setV_stack (r : Reg) (v : Byte) : (s.setV r v).stack = s.stack := rfl
@[simp] theorem State.setV_sp (r : Reg) (v : Byte) : (s.setV r v).sp = s.sp := rfl
@[simp] theorem State.setV_DT (r : Reg) (v : Byte) : (s.setV r v).DT = s.DT := rfl
@[simp] theorem State.setV_ST (r : Reg) (v : Byte) : (s.setV r v).ST = s.ST := rfl
@[simp] theorem State.setV_keys (r : Reg) (v : Byte) : (s.setV r v).keys = s.keys := rfl
@[simp] theorem State.setV_awaited (r : Reg) (v : Byte) : (s.setV r v).awaited = s.awaited := rfl
@[simp] theorem State.setV_fb (r : Reg) (v : Byte) : (s.setV r v).fb = s.fb := rfl
@[simp] theorem State.setV_tickAcc (r : Reg) (v : Byte) : (s.setV r v).tickAcc = s.tickAcc := rfl
@[simp] theorem State.setV_clockAcc (r : Reg) (v : Byte) : (s.setV r v).clockAcc = s.clockAcc := rfl
@[simp] theorem State.setV_cfg (r : Reg) (v : Byte) : (s.setV r v).cfg = s.cfg := rfl
@[simp] theorem State.setV_draws (r : Reg) (v : Byte) : (s.setV r v).draws = s.draws := rfl
@[simp] theorem State.setV_started (r : Reg) (v : Byte) : (s.setV r v).started = s.started := rfl
@[simp] theorem State.setV_schedule (r : Reg) (v : Byte) : (s.setV r v).schedule = s.schedule := rfl
@[simp] theorem State.setV_byteAt (r : Reg) (v : Byte) (c : Nat) : (s.setV r v).byteAt c = s.byteAt c := rfl

/-! ### `setVF` -/

@[simp] theorem State.setVF_mem (v : Byte) : (s.setVF v).mem = s.mem := rfl
@[simp] theorem State.setVF_V (v : Byte) : (s.setVF v).V = s.V.set Reg.VF v := rfl
@[simp] theorem State.setVF_I (v : Byte) : (s.setVF v).I = s.I := rfl
@[simp] theorem State.setVF_pc (v : Byte) : (s.setVF v).pc = s.pc := rfl
@[simp] theorem State.setVF_stack (v : Byte) : (s.setVF v).stack = s.stack := rfl
@[simp] theorem State.setVF_sp (v : Byte) : (s.setVF v).sp = s.sp := rfl
@[simp] theorem State.setVF_DT (v : Byte) : (s.setVF v).DT = s.DT := rfl
@[simp] theorem State.setVF_ST (v : Byte) : (s.setVF v).ST = s.ST := rfl
@[simp] theorem State.setVF_keys (v : Byte) : (s.setVF v).keys = s.keys := rfl
@[simp] theorem State.setVF_awaited (v : Byte) : (s.setVF v).awaited = s.awaited := rfl
@[simp] theorem State.setVF_fb (v : Byte) : (s.setVF v).fb = s.fb := rfl
@[simp] theorem State.setVF_tickAcc (v : Byte) : (s.setVF v).tickAcc = s.tickAcc := rfl
@[simp] theorem State.setVF_clockAcc (v : Byte) : (s.setVF v).clockAcc = s.clockAcc := rfl
@[simp] theorem State.setVF_cfg (v : Byte) : (s.setVF v).cfg = s.cfg := rfl
@[simp] theorem State.setVF_draws (v : Byte) : (s.setVF v).draws = s.draws := rfl
@[simp] theorem State.setVF_started (v : Byte) : (s.setVF v).started = s.started := rfl
@[simp] theorem State.setVF_schedule (v : Byte) : (s.setVF v).schedule = s.schedule := rfl
@[simp] theorem State.setVF_byteAt (v : Byte) (c : Nat) : (s.setVF v).byteAt c = s.byteAt c := rfl

/-! ### `setI` -/

@[simp] theorem State.setI_mem (v : Word) : (s.setI v).mem = s.mem := rfl
@[simp] theorem State.setI_V (v : Word) : (s.setI v).V = s.V := rfl
@[simp] theorem State.setI_I (v : Word) : (s.setI v).I = v := rfl
@[simp] theorem State.setI_pc (v : Word) : (s.setI v).pc = s.pc := rfl
@[simp] theorem State.setI_stack (v : Word) : (s.setI v).stack = s.stack := rfl
@[simp] theorem State.setI_sp (v : Word) : (s.setI v).sp = s.sp := rfl
@[simp] theorem State.setI_DT (v : Word) : (s.setI v).DT = s.DT := rfl
@[simp] theorem State.setI_ST (v : Word) : (s.setI v).ST = s.ST := rfl
@[simp] theorem State.setI_keys (v : Word) : (s.setI v).keys = s.keys := rfl
@[simp] theorem State.setI_awaited (v : Word) : (s.setI v).awaited = s.awaited := rfl
@[simp] theorem State.setI_fb (v : Word) : (s.setI v).fb = s.fb := rfl
@[simp] theorem State.setI_tickAcc (v : Word) : (s.setI v).tickAcc = s.tickAcc := rfl
@[simp] theorem State.setI_clockAcc (v : Word) : (s.setI v).clockAcc = s.clockAcc := rfl
@[simp] theorem State.setI_cfg (v : Word) : (s.setI v).cfg = s.cfg := rfl
@[simp] theorem State.setI_draws (v : Word) : (s.setI v).draws = s.draws := rfl
@[simp] theorem State.setI_started (v : Word) : (s.setI v).started = s.started := rfl
@[simp] theorem State.setI_schedule (v : Word) : (s.setI v).schedule = s.schedule := rfl
@[simp] theorem State.setI_byteAt (v : Word) (c : Nat) : (s.setI v).byteAt c = s.byteAt c := rfl

/-! ### `setPc` -/

@[simp] theorem State.setPc_mem (v : Word) : (s.setPc v).mem = s.mem := rfl
@[simp] theorem State.setPc_V (v : Word) : (s.setPc v).V = s.V := rfl
@[simp] theorem State.setPc_I (v : Word) : (s.setPc v).I = s.I := rfl
@[simp] theorem State.setPc_pc (v : Word) : (s.setPc v).pc = v := rfl
@[simp] theorem State.setPc_stack (v : Word) : (s.setPc v).stack = s.stack := rfl
@[simp] theorem State.setPc_sp (v : Word) : (s.setPc v).sp = s.sp := rfl
@[simp] theorem State.setPc_DT (v : Word) : (s.setPc v).DT = s.DT := rfl
@[simp] theorem State.setPc_ST (v : Word) : (s.setPc v).ST = s.ST := rfl
@[simp] theorem State.setPc_keys (v : Word) : (s.setPc v).keys = s.keys := rfl
@[simp] theorem State.setPc_awaited (v : Word) : (s.setPc v).awaited = s.awaited := rfl
@[simp] theorem State.setPc_fb (v : Word) : (s.setPc v).fb = s.fb := rfl
@[simp] theorem State.setPc_tickAcc (v : Word) : (s.setPc v).tickAcc = s.tickAcc := rfl
@[simp] theorem State.setPc_clockAcc (v : Word) : (s.setPc v).clockAcc = s.clockAcc := rfl
@[simp] theorem State.setPc_cfg (v : Word) : (s.setPc v).cfg = s.cfg := rfl
@[simp] theorem State.setPc_draws (v : Word) : (s.setPc v).draws = s.draws := rfl
@[simp] theorem State.setPc_started (v : Word) : (s.setPc v).started = s.started := rfl
@[simp] theorem State.setPc_schedule (v : Word) : (s.setPc v).schedule = s.schedule := rfl
@[simp] theorem State.setPc_byteAt (v : Word) (c : Nat) : (s.setPc v).byteAt c = s.byteAt c := rfl

/-! ### `setDT` -/

@[simp] theorem State.setDT_mem (v : Byte) : (s.setDT v).mem = s.mem := rfl
@[simp] theorem State.setDT_V (v : Byte) : (s.setDT v).V = s.V := rfl
@[simp] theorem State.setDT_I (v : Byte) : (s.setDT v).I = s.I := rfl
@[simp] theorem State.setDT_pc (v : Byte) : (s.setDT v).pc = s.pc := rfl
@[simp] theorem State.setDT_stack (v : Byte) : (s.setDT v).stack = s.stack := rfl
@[simp] theorem State.setDT_sp (v : Byte) : (s.setDT v).sp = s.sp := rfl
@[simp] theorem State.setDT_DT (v : Byte) : (s.setDT v).DT = v := rfl
@[simp] theorem State.setDT_ST (v : Byte) : (s.setDT v).ST = s.ST := rfl
@[simp] theorem State.setDT_keys (v : Byte) : (s.setDT v).keys = s.keys := rfl
@[simp] theorem State.setDT_awaited (v : Byte) : (s.setDT v).awaited = s.awaited := rfl
@[simp] theorem State.setDT_fb (v : Byte) : (s.setDT v).fb = s.fb := rfl
@[simp] theorem State.setDT_tickAcc (v : Byte) : (s.setDT v).tickAcc = s.tickAcc := rfl
@[simp] theorem State.setDT_clockAcc (v : Byte) : (s.setDT v).clockAcc = s.clockAcc := rfl
@[simp] theorem State.setDT_cfg (v : Byte) : (s.setDT v).cfg = s.cfg := rfl
@[simp] theorem State.setDT_draws (v : Byte) : (s.setDT v).draws = s.draws := rfl
@[simp] theorem State.setDT_started (v : Byte) : (s.setDT v).started = s.started := rfl
@[simp] theorem State.setDT_schedule (v : Byte) : (s.setDT v).schedule = s.schedule := rfl
@[simp] theorem State.setDT_byteAt (v : Byte) (c : Nat) : (s.setDT v).byteAt c = s.byteAt c := rfl

/-! ### `setST` -/

@[simp] theorem State.setST_mem (v : Byte) : (s.setST v).mem = s.mem := rfl
@[simp] theorem State.setST_V (v : Byte) : (s.setST v).V = s.V := rfl
@[simp] theorem State.setST_I (v : Byte) : (s.setST v).I = s.I := rfl
@[simp] theorem State.setST_pc (v : Byte) : (s.setST v).pc = s.pc := rfl
@[simp] theorem State.setST_stack (v : Byte) : (s.setST v).stack = s.stack := rfl
@[simp] theorem State.setST_sp (v : Byte) : (s.setST v).sp = s.sp := rfl
@[simp] theorem State.setST_DT (v : Byte) : (s.setST v).DT = s.DT := rfl
@[simp] theorem State.setST_ST (v : Byte) : (s.setST v).ST = v := rfl
@[simp] theorem State.setST_keys (v : Byte) : (s.setST v).keys = s.keys := rfl
@[simp] theorem State.setST_awaited (v : Byte) : (s.setST v).awaited = s.awaited := rfl
@[simp] theorem State.setST_fb (v : Byte) : (s.setST v).fb = s.fb := rfl
@[simp] theorem State.setST_tickAcc (v : Byte) : (s.setST v).tickAcc = s.tickAcc := rfl
@[simp] theorem State.setST_clockAcc (v : Byte) : (s.setST v).clockAcc = s.clockAcc := rfl
@[simp] theorem State.setST_cfg (v : Byte) : (s.setST v).cfg = s.cfg := rfl
@[simp] theorem State.setST_draws (v : Byte) : (s.setST v).draws = s.draws := rfl
@[simp] theorem State.setST_started (v : Byte) : (s.setST v).started = s.started := rfl
@[simp] theorem State.setST_schedule (v : Byte) : (s.setST v).schedule = s.schedule := rfl
@[simp] theorem State.setST_byteAt (v : Byte) (c : Nat) : (s.setST v).byteAt c = s.byteAt c := rfl

/-! ### `setAwaited` -/

@[simp] theorem State.setAwaited_mem (a : Option Reg) : (s.setAwaited a).mem = s.mem := rfl
@[simp] theorem State.setAwaited_V (a : Option Reg) : (s.setAwaited a).V = s.V := rfl
@[simp] theorem State.setAwaited_I (a : Option Reg) : (s.setAwaited a).I = s.I := rfl
@[simp] theorem State.setAwaited_pc (a : Option Reg) : (s.setAwaited a).pc = s.pc := rfl
@[simp] theorem State.setAwaited_stack (a : Option Reg) : (s.setAwaited a).stack = s.stack := rfl
@[simp] theorem State.setAwaited_sp (a : Option Reg) : (s.setAwaited a).sp = s.sp := rfl
@[simp] theorem State.setAwaited_DT (a : Option Reg) : (s.setAwaited a).DT = s.DT := rfl
@[simp] theorem State.setAwaited_ST (a : Option Reg) : (s.setAwaited a).ST = s.ST := rfl
@[simp] theorem State.setAwaited_keys (a : Option Reg) : (s.setAwaited a).keys = s.keys := rfl
@[simp] theorem State.setAwaited_awaited (a : Option Reg) : (s.setAwaited a).awaited = a := rfl
@[simp] theorem State.setAwaited_fb (a : Option Reg) : (s.setAwaited a).fb = s.fb := rfl
@[simp] theorem State.setAwaited_tickAcc (a : Option Reg) : (s.setAwaited a).tickAcc = s.tickAcc := rfl
@[simp] theorem State.setAwaited_clockAcc (a : Option Reg) : (s.setAwaited a).clockAcc = s.clockAcc := rfl
@[simp] theorem State.setAwaited_cfg (a : Option Reg) : (s.setAwaited a).cfg = s.cfg := rfl
@[simp] theorem State.setAwaited_draws (a : Option Reg) : (s.setAwaited a).draws = s.draws := rfl
@[simp] theorem State.setAwaited_started (a : Option Reg) : (s.setAwaited a).started = s.started := rfl
@[simp] theorem State.setAwaited_schedule (a : Option Reg) : (s.setAwaited a).schedule = s.schedule := rfl
@[simp] theorem State.setAwaited_byteAt (a : Option Reg) (c : Nat) : (s.setAwaited a).byteAt c = s.byteAt c := rfl

/-! ### `setFb` -/

@[simp] theorem State.setFb_mem (f : Framebuffer) : (s.setFb f).mem = s.mem := rfl
@[simp] theorem State.setFb_V (f : Framebuffer) : (s.setFb f).V = s.V := rfl
@[simp] theorem State.setFb_I (f : Framebuffer) : (s.setFb f).I = s.I := rfl
@[simp] theorem State.setFb_pc (f : Framebuffer) : (s.setFb f).pc = s.pc := rfl
@[simp] theorem State.setFb_stack (f : Framebuffer) : (s.setFb f).stack = s.stack := rfl
@[simp] theorem State.setFb_sp (f : Framebuffer) : (s.setFb f).sp = s.sp := rfl
@[simp] theorem State.setFb_DT (f : Framebuffer) : (s.setFb f).DT = s.DT := rfl
@[simp] theorem State.setFb_ST (f : Framebuffer) : (s.setFb f).ST = s.ST := rfl
@[simp] theorem State.setFb_keys (f : Framebuffer) : (s.setFb f).keys = s.keys := rfl
@[simp] theorem State.setFb_awaited (f : Framebuffer) : (s.setFb f).awaited = s.awaited := rfl
@[simp] theorem State.setFb_fb (f : Framebuffer) : (s.setFb f).fb = f := rfl
@[simp] theorem State.setFb_tickAcc (f : Framebuffer) : (s.setFb f).tickAcc = s.tickAcc := rfl
@[simp] theorem State.setFb_clockAcc (f : Framebuffer) : (s.setFb f).clockAcc = s.clockAcc := rfl
@[simp] theorem State.setFb_cfg (f : Framebuffer) : (s.setFb f).cfg = s.cfg := rfl
@[simp] theorem State.setFb_draws (f : Framebuffer) : (s.setFb f).draws = s.draws := rfl
@[simp] theorem State.setFb_started (f : Framebuffer) : (s.setFb f).started = s.started := rfl
@[simp] theorem State.setFb_schedule (f : Framebuffer) : (s.setFb f).schedule = s.schedule := rfl
@[simp] theorem State.setFb_byteAt (f : Framebuffer) (c : Nat) : (s.setFb f).byteAt c = s.byteAt c := rfl

/-! ### `setKey` -/

@[simp] theorem State.setKey_mem (k : Key) (b : Bool) : (s.setKey k b).mem = s.mem := rfl
@[simp] theorem State.setKey_V (k : Key) (b : Bool) : (s.setKey k b).V = s.V := rfl
@[simp] theorem State.setKey_I (k : Key) (b : Bool) : (s.setKey k b).I = s.I := rfl
@[simp] theorem State.setKey_pc (k : Key) (b : Bool) : (s.setKey k b).pc = s.pc := rfl
@[simp] theorem State.setKey_stack (k : Key) (b : Bool) : (s.setKey k b).stack = s.stack := rfl
@[simp] theorem State.setKey_sp (k : Key) (b : Bool) : (s.setKey k b).sp = s.sp := rfl
@[simp] theorem State.setKey_DT (k : Key) (b : Bool) : (s.setKey k b).DT = s.DT := rfl
@[simp] theorem State.setKey_ST (k : Key) (b : Bool) : (s.setKey k b).ST = s.ST := rfl
@[simp] theorem State.setKey_keys (k : Key) (b : Bool) : (s.setKey k b).keys = s.keys.set k b := rfl
@[simp] theorem State.setKey_awaited (k : Key) (b : Bool) : (s.setKey k b).awaited = s.awaited := rfl
@[simp] theorem State.setKey_fb (k : Key) (b : Bool) : (s.setKey k b).fb = s.fb := rfl
@[simp] theorem State.setKey_tickAcc (k : Key) (b : Bool) : (s.setKey k b).tickAcc = s.tickAcc := rfl
@[simp] theorem State.setKey_clockAcc (k : Key) (b : Bool) : (s.setKey k b).clockAcc = s.clockAcc := rfl
@[simp] theorem State.setKey_cfg (k : Key) (b : Bool) : (s.setKey k b).cfg = s.cfg := rfl
@[simp] theorem State.setKey_draws (k : Key) (b : Bool) : (s.setKey k b).draws = s.draws := rfl
@[simp] theorem State.setKey_started (k : Key) (b : Bool) : (s.setKey k b).started = s.started := rfl
@[simp] theorem State.setKey_schedule (k : Key) (b : Bool) : (s.setKey k b).schedule = s.schedule := rfl
@[simp] theorem State.setKey_byteAt (k : Key) (b : Bool) (c : Nat) : (s.setKey k b).byteAt c = s.byteAt c := rfl

/-! ### `countDraw` -/

@[simp] theorem State.countDraw_mem : (s.countDraw).mem = s.mem := rfl
@[simp] theorem State.countDraw_V : (s.countDraw).V = s.V := rfl
@[simp] theorem State.countDraw_I : (s.countDraw).I = s.I := rfl
@[simp] theorem State.countDraw_pc : (s.countDraw).pc = s.pc := rfl
@[simp] theorem State.countDraw_stack : (s.countDraw).stack = s.stack := rfl
@[simp] theorem State.countDraw_sp : (s.countDraw).sp = s.sp := rfl
@[simp] theorem State.countDraw_DT : (s.countDraw).DT = s.DT := rfl
@[simp] theorem State.countDraw_ST : (s.countDraw).ST = s.ST := rfl
@[simp] theorem State.countDraw_keys : (s.countDraw).keys = s.keys := rfl
@[simp] theorem State.countDraw_awaited : (s.countDraw).awaited = s.awaited := rfl
@[simp] theorem State.countDraw_fb : (s.countDraw).fb = s.fb := rfl
@[simp] theorem State.countDraw_tickAcc : (s.countDraw).tickAcc = s.tickAcc := rfl
@[simp] theorem State.countDraw_clockAcc : (s.countDraw).clockAcc = s.clockAcc := rfl
@[simp] theorem State.countDraw_cfg : (s.countDraw).cfg = s.cfg := rfl
@[simp] theorem State.countDraw_draws : (s.countDraw).draws = s.draws + 1 := rfl
@[simp] theorem State.countDraw_started : (s.countDraw).started = s.started := rfl
@[simp] theorem State.countDraw_schedule : (s.countDraw).schedule = s.schedule := rfl
@[simp] theorem State.countDraw_byteAt (c : Nat) : (s.countDraw).byteAt c = s.byteAt c := rfl

/-! ### `advancePc` -/

@[simp] theorem State.advancePc_mem : (s.advancePc).mem = s.mem := rfl
@[simp] theorem State.advancePc_V : (s.advancePc).V = s.V := rfl
@[simp] theorem State.advancePc_I : (s.advancePc).I = s.I := rfl
@[simp] theorem State.advancePc_pc : (s.advancePc).pc = s.pc + 2 := rfl
@[simp] theorem State.advancePc_stack : (s.advancePc).stack = s.stack := rfl
@[simp] theorem State.advancePc_sp : (s.advancePc).sp = s.sp := rfl
@[simp] theorem State.advancePc_DT : (s.advancePc).DT = s.DT := rfl
@[simp] theorem State.advancePc_ST : (s.advancePc).ST = s.ST := rfl
@[simp] theorem State.advancePc_keys : (s.advancePc).keys = s.keys := rfl
@[simp] theorem State.advancePc_awaited : (s.advancePc).awaited = s.awaited := rfl
@[simp] theorem State.advancePc_fb : (s.advancePc).fb = s.fb := rfl
@[simp] theorem State.advancePc_tickAcc : (s.advancePc).tickAcc = s.tickAcc := rfl
@[simp] theorem State.advancePc_clockAcc : (s.advancePc).clockAcc = s.clockAcc := rfl
@[simp] theorem State.advancePc_cfg : (s.advancePc).cfg = s.cfg := rfl
@[simp] theorem State.advancePc_draws : (s.advancePc).draws = s.draws := rfl
@[simp] theorem State.advancePc_started : (s.advancePc).started = s.started := rfl
@[simp] theorem State.advancePc_schedule : (s.advancePc).schedule = s.schedule := rfl
@[simp] theorem State.advancePc_byteAt (c : Nat) : (s.advancePc).byteAt c = s.byteAt c := rfl

/-! ### `writeByte` -/

@[simp] theorem State.writeByte_mem (a : Nat) (b : Byte) : (s.writeByte a b).mem = Memory.write s.cfg.font s.mem a b := rfl
@[simp] theorem State.writeByte_V (a : Nat) (b : Byte) : (s.writeByte a b).V = s.V := rfl
@[simp] theorem State.writeByte_I (a : Nat) (b : Byte) : (s.writeByte a b).I = s.I := rfl
@[simp] theorem State.writeByte_pc (a : Nat) (b : Byte) : (s.writeByte a b).pc = s.pc := rfl
@[simp] theorem State.writeByte_stack (a : Nat) (b : Byte) : (s.writeByte a b).stack = s.stack := rfl
@[simp] theorem State.writeByte_sp (a : Nat) (b : Byte) : (s.writeByte a b).sp = s.sp := rfl
@[simp] theorem State.writeByte_DT (a : Nat) (b : Byte) : (s.writeByte a b).DT = s.DT := rfl
@[simp] theorem State.writeByte_ST (a : Nat) (b : Byte) : (s.writeByte a b).ST = s.ST := rfl
@[simp] theorem State.writeByte_keys (a : Nat) (b : Byte) : (s.writeByte a b).keys = s.keys := rfl
@[simp] theorem State.writeByte_awaited (a : Nat) (b : Byte) : (s.writeByte a b).awaited = s.awaited := rfl
@[simp] theorem State.writeByte_fb (a : Nat) (b : Byte) : (s.writeByte a b).fb = s.fb := rfl
@[simp] theorem State.writeByte_tickAcc (a : Nat) (b : Byte) : (s.writeByte a b).tickAcc = s.tickAcc := rfl
@[simp] theorem State.writeByte_clockAcc (a : Nat) (b : Byte) : (s.writeByte a b).clockAcc = s.clockAcc := rfl
@[simp] theorem State.writeByte_cfg (a : Nat) (b : Byte) : (s.writeByte a b).cfg = s.cfg := rfl
@[simp] theorem State.writeByte_draws (a : Nat) (b : Byte) : (s.writeByte a b).draws = s.draws := rfl
@[simp] theorem State.writeByte_started (a : Nat) (b : Byte) : (s.writeByte a b).started = s.started := rfl
@[simp] theorem State.writeByte_schedule (a : Nat) (b : Byte) : (s.writeByte a b).schedule = s.schedule := rfl

/-! ### `resultThenFlag` -/

@[simp] theorem State.resultThenFlag_mem (x : Reg) (v f : Byte) : (s.resultThenFlag x v f).mem = s.mem := rfl
@[simp] theorem State.resultThenFlag_V (x : Reg) (v f : Byte) : (s.resultThenFlag x v f).V = (s.V.set x v).set Reg.VF f := rfl
@[simp] theorem State.resultThenFlag_I (x : Reg) (v f : Byte) : (s.resultThenFlag x v f).I = s.I := rfl
@[simp] theorem State.resultThenFlag_pc (x : Reg) (v f : Byte) : (s.resultThenFlag x v f).pc = s.pc := rfl
@[simp] theorem State.resultThenFlag_stack (x : Reg) (v f : Byte) : (s.resultThenFlag x v f).stack = s.stack := rfl
@[simp] theorem State.resultThenFlag_sp (x : Reg) (v f : Byte) : (s.resultThenFlag x v f).sp = s.sp := rfl
@[simp] theorem State.resultThenFlag_DT (x : Reg) (v f : Byte) : (s.resultThenFlag x v f).DT = s.DT := rfl
@[simp] theorem State.resultThenFlag_ST (x : Reg) (v f : Byte) : (s.resultThenFlag x v f).ST = s.ST := rfl
@[simp] theorem State.resultThenFlag_keys (x : Reg) (v f : Byte) : (s.resultThenFlag x v f).keys = s.keys := rfl
@[simp] theorem State.resultThenFlag_awaited (x : Reg) (v f : Byte) : (s.resultThenFlag x v f).awaited = s.awaited := rfl
@[simp] theorem State.resultThenFlag_fb (x : Reg) (v f : Byte) : (s.resultThenFlag x v f).fb = s.fb := rfl
@[simp] theorem State.resultThenFlag_tickAcc (x : Reg) (v f : Byte) : (s.resultThenFlag x v f).tickAcc = s.tickAcc := rfl
@[simp] theorem State.resultThenFlag_clockAcc (x : Reg) (v f : Byte) : (s.resultThenFlag x v f).clockAcc = s.clockAcc := rfl
@[simp] theorem State.resultThenFlag_cfg (x : Reg) (v f : Byte) : (s.resultThenFlag x v f).cfg = s.cfg := rfl
@[simp] theorem State.resultThenFlag_draws (x : Reg) (v f : Byte) : (s.resultThenFlag x v f).draws = s.draws := rfl
@[simp] theorem State.resultThenFlag_started (x : Reg) (v f : Byte) : (s.resultThenFlag x v f).started = s.started := rfl
@[simp] theorem State.resultThenFlag_schedule (x : Reg) (v f : Byte) : (s.resultThenFlag x v f).schedule = s.schedule := rfl
@[simp] theorem State.resultThenFlag_byteAt (x : Reg) (v f : Byte) (c : Nat) : (s.resultThenFlag x v f).byteAt c = s.byteAt c := rfl

/-! ### `flagThenResult` -/

@[simp] theorem State.flagThenResult_mem (x : Reg) (v f : Byte) : (s.flagThenResult x v f).mem = s.mem := rfl
@[simp] theorem State.flagThenResult_V (x : Reg) (v f : Byte) : (s.flagThenResult x v f).V = (s.V.set Reg.VF f).set x v := rfl
@[simp] theorem State.flagThenResult_I (x : Reg) (v f : Byte) : (s.flagThenResult x v f).I = s.I := rfl
@[simp] theorem State.flagThenResult_pc (x : Reg) (v f : Byte) : (s.flagThenResult x v f).pc = s.pc := rfl
@[simp] theorem State.flagThenResult_stack (x : Reg) (v f : Byte) : (s.flagThenResult x v f).stack = s.stack := rfl
@[simp] theorem State.flagThenResult_sp (x : Reg) (v f : Byte) : (s.flagThenResult x v f).sp = s.sp := rfl
@[simp] theorem State.flagThenResult_DT (x : Reg) (v f : Byte) : (s.flagThenResult x v f).DT = s.DT := rfl
@[simp] theorem State.flagThenResult_ST (x : Reg) (v f : Byte) : (s.flagThenResult x v f).ST = s.ST := rfl
@[simp] theorem State.flagThenResult_keys (x : Reg) (v f : Byte) : (s.flagThenResult x v f).keys = s.keys := rfl
@[simp] theorem State.flagThenResult_awaited (x : Reg) (v f : Byte) : (s.flagThenResult x v f).awaited = s.awaited := rfl
@[simp] theorem State.flagThenResult_fb (x : Reg) (v f : Byte) : (s.flagThenResult x v f).fb = s.fb := rfl
@[simp] theorem State.flagThenResult_tickAcc (x : Reg) (v f : Byte) : (s.flagThenResult x v f).tickAcc = s.tickAcc := rfl
@[simp] theorem State.flagThenResult_clockAcc (x : Reg) (v f : Byte) : (s.flagThenResult x v f).clockAcc = s.clockAcc := rfl
@[simp] theorem State.flagThenResult_cfg (x : Reg) (v f : Byte) : (s.flagThenResult x v f).cfg = s.cfg := rfl
@[simp] theorem State.flagThenResult_draws (x : Reg) (v f : Byte) : (s.flagThenResult x v f).draws = s.draws := rfl
@[simp] theorem State.flagThenResult_started (x : Reg) (v f : Byte) : (s.flagThenResult x v f).started = s.started := rfl
@[simp] theorem State.flagThenResult_schedule (x : Reg) (v f : Byte) : (s.flagThenResult x v f).schedule = s.schedule := rfl
@[simp] theorem State.flagThenResult_byteAt (x : Reg) (v f : Byte) (c : Nat) : (s.flagThenResult x v f).byteAt c = s.byteAt c := rfl

/-! ### `push` -/

@[simp] theorem State.push_mem (v : Word) (h : s.sp.val < 16) : (s.push v h).mem = s.mem := rfl
@[simp] theorem State.push_V (v : Word) (h : s.sp.val < 16) : (s.push v h).V = s.V := rfl
@[simp] theorem State.push_I (v : Word) (h : s.sp.val < 16) : (s.push v h).I = s.I := rfl
@[simp] theorem State.push_pc (v : Word) (h : s.sp.val < 16) : (s.push v h).pc = s.pc := rfl
@[simp] theorem State.push_stack (v : Word) (h : s.sp.val < 16) : (s.push v h).stack = s.stack.set s.sp.val v := rfl
@[simp] theorem State.push_sp (v : Word) (h : s.sp.val < 16) : (s.push v h).sp = ⟨s.sp.val + 1, by omega⟩ := rfl
@[simp] theorem State.push_DT (v : Word) (h : s.sp.val < 16) : (s.push v h).DT = s.DT := rfl
@[simp] theorem State.push_ST (v : Word) (h : s.sp.val < 16) : (s.push v h).ST = s.ST := rfl
@[simp] theorem State.push_keys (v : Word) (h : s.sp.val < 16) : (s.push v h).keys = s.keys := rfl
@[simp] theorem State.push_awaited (v : Word) (h : s.sp.val < 16) : (s.push v h).awaited = s.awaited := rfl
@[simp] theorem State.push_fb (v : Word) (h : s.sp.val < 16) : (s.push v h).fb = s.fb := rfl
@[simp] theorem State.push_tickAcc (v : Word) (h : s.sp.val < 16) : (s.push v h).tickAcc = s.tickAcc := rfl
@[simp] theorem State.push_clockAcc (v : Word) (h : s.sp.val < 16) : (s.push v h).clockAcc = s.clockAcc := rfl
@[simp] theorem State.push_cfg (v : Word) (h : s.sp.val < 16) : (s.push v h).cfg = s.cfg := rfl
@[simp] theorem State.push_draws (v : Word) (h : s.sp.val < 16) : (s.push v h).draws = s.draws := rfl
@[simp] theorem State.push_started (v : Word) (h : s.sp.val < 16) : (s.push v h).started = s.started := rfl
@[simp] theorem State.push_schedule (v : Word) (h : s.sp.val < 16) : (s.push v h).schedule = s.schedule := rfl
@[simp] theorem State.push_byteAt (v : Word) (h : s.sp.val < 16) (c : Nat) : (s.push v h).byteAt c = s.byteAt c := rfl

/-! ### `popToPc` -/

@[simp] theorem State.popToPc_mem (h : 0 < s.sp.val) : (s.popToPc h).mem = s.mem := rfl
@[simp] theorem State.popToPc_V (h : 0 < s.sp.val) : (s.popToPc h).V = s.V := rfl
@[simp] theorem State.popToPc_I (h : 0 < s.sp.val) : (s.popToPc h).I = s.I := rfl
@[simp] theorem State.popToPc_pc (h : 0 < s.sp.val) : (s.popToPc h).pc = s.stack[s.sp.val - 1]'(by omega) := rfl
@[simp] theorem State.popToPc_stack (h : 0 < s.sp.val) : (s.popToPc h).stack = s.stack := rfl
@[simp] theorem State.popToPc_sp (h : 0 < s.sp.val) : (s.popToPc h).sp = ⟨s.sp.val - 1, by omega⟩ := rfl
@[simp] theorem State.popToPc_DT (h : 0 < s.sp.val) : (s.popToPc h).DT = s.DT := rfl
@[simp] theorem State.popToPc_ST (h : 0 < s.sp.val) : (s.popToPc h).ST = s.ST := rfl
@[simp] theorem State.popToPc_keys (h : 0 < s.sp.val) : (s.popToPc h).keys = s.keys := rfl
@[simp] theorem State.popToPc_awaited (h : 0 < s.sp.val) : (s.popToPc h).awaited = s.awaited := rfl
@[simp] theorem State.popToPc_fb (h : 0 < s.sp.val) : (s.popToPc h).fb = s.fb := rfl
@[simp] theorem State.popToPc_tickAcc (h : 0 < s.sp.val) : (s.popToPc h).tickAcc = s.tickAcc := rfl
@[simp] theorem State.popToPc_clockAcc (h : 0 < s.sp.val) : (s.popToPc h).clockAcc = s.clockAcc := rfl
@[simp] theorem State.popToPc_cfg (h : 0 < s.sp.val) : (s.popToPc h).cfg = s.cfg := rfl
@[simp] theorem State.popToPc_draws (h : 0 < s.sp.val) : (s.popToPc h).draws = s.draws := rfl
@[simp] theorem State.popToPc_started (h : 0 < s.sp.val) : (s.popToPc h).started = s.started := rfl
@[simp] theorem State.popToPc_schedule (h : 0 < s.sp.val) : (s.popToPc h).schedule = s.schedule := rfl
@[simp] theorem State.popToPc_byteAt (h : 0 < s.sp.val) (c : Nat) : (s.popToPc h).byteAt c = s.byteAt c := rfl

/-! ### `tick` -/

@[simp] theorem State.tick_mem : (s.tick).mem = s.mem := rfl
@[simp] theorem State.tick_V : (s.tick).V = s.V := rfl
@[simp] theorem State.tick_I : (s.tick).I = s.I := rfl
@[simp] theorem State.tick_pc : (s.tick).pc = s.pc := rfl
@[simp] theorem State.tick_stack : (s.tick).stack = s.stack := rfl
@[simp] theorem State.tick_sp : (s.tick).sp = s.sp := rfl
@[simp] theorem State.tick_DT : (s.tick).DT = countDown s.DT := rfl
@[simp] theorem State.tick_ST : (s.tick).ST = countDown s.ST := rfl
@[simp] theorem State.tick_keys : (s.tick).keys = s.keys := rfl
@[simp] theorem State.tick_awaited : (s.tick).awaited = s.awaited := rfl
@[simp] theorem State.tick_fb : (s.tick).fb = s.fb := rfl
@[simp] theorem State.tick_tickAcc : (s.tick).tickAcc = s.tickAcc := rfl
@[simp] theorem State.tick_clockAcc : (s.tick).clockAcc = s.clockAcc := rfl
@[simp] theorem State.tick_cfg : (s.tick).cfg = s.cfg := rfl
@[simp] theorem State.tick_draws : (s.tick).draws = s.draws := rfl
@[simp] theorem State.tick_started : (s.tick).started = s.started := rfl
@[simp] theorem State.tick_schedule : (s.tick).schedule = s.schedule := rfl
@[simp] theorem State.tick_byteAt (c : Nat) : (s.tick).byteAt c = s.byteAt c := rfl

/-! ### `takeEvent` -/

@[simp] theorem State.takeEvent_mem : (s.takeEvent).mem = s.mem := rfl
@[simp] theorem State.takeEvent_V : (s.takeEvent).V = s.V := rfl
@[simp] theorem State.takeEvent_I : (s.takeEvent).I = s.I := rfl
@[simp] theorem State.takeEvent_pc : (s.takeEvent).pc = s.pc := rfl
@[simp] theorem State.takeEvent_stack : (s.takeEvent).stack = s.stack := rfl
@[simp] theorem State.takeEvent_sp : (s.takeEvent).sp = s.sp := rfl
@[simp] theorem State.takeEvent_DT : (s.takeEvent).DT = s.DT := rfl
@[simp] theorem State.takeEvent_ST : (s.takeEvent).ST = s.ST := rfl
@[simp] theorem State.takeEvent_keys : (s.takeEvent).keys = s.keys := rfl
@[simp] theorem State.takeEvent_awaited : (s.takeEvent).awaited = s.awaited := rfl
@[simp] theorem State.takeEvent_fb : (s.takeEvent).fb = s.fb := rfl
@[simp] theorem State.takeEvent_tickAcc : (s.takeEvent).tickAcc = s.tickAcc := rfl
@[simp] theorem State.takeEvent_clockAcc : (s.takeEvent).clockAcc = s.clockAcc := rfl
@[simp] theorem State.takeEvent_cfg : (s.takeEvent).cfg = s.cfg := rfl
@[simp] theorem State.takeEvent_draws : (s.takeEvent).draws = s.draws := rfl
@[simp] theorem State.takeEvent_started : (s.takeEvent).started = s.started := rfl
@[simp] theorem State.takeEvent_schedule : (s.takeEvent).schedule = s.schedule.tail := rfl
@[simp] theorem State.takeEvent_byteAt (c : Nat) : (s.takeEvent).byteAt c = s.byteAt c := rfl

/-! ### `consumePeriod` -/

@[simp] theorem State.consumePeriod_mem : (s.consumePeriod).mem = s.mem := rfl
@[simp] theorem State.consumePeriod_V : (s.consumePeriod).V = s.V := rfl
@[simp] theorem State.consumePeriod_I : (s.consumePeriod).I = s.I := rfl
@[simp] theorem State.consumePeriod_pc : (s.consumePeriod).pc = s.pc := rfl
@[simp] theorem State.consumePeriod_stack : (s.consumePeriod).stack = s.stack := rfl
@[simp] theorem State.consumePeriod_sp : (s.consumePeriod).sp = s.sp := rfl
@[simp] theorem State.consumePeriod_DT : (s.consumePeriod).DT = s.DT := rfl
@[simp] theorem State.consumePeriod_ST : (s.consumePeriod).ST = s.ST := rfl
@[simp] theorem State.consumePeriod_keys : (s.consumePeriod).keys = s.keys := rfl
@[simp] theorem State.consumePeriod_awaited : (s.consumePeriod).awaited = s.awaited := rfl
@[simp] theorem State.consumePeriod_fb : (s.consumePeriod).fb = s.fb := rfl
@[simp] theorem State.consumePeriod_tickAcc : (s.consumePeriod).tickAcc = s.tickAcc := rfl
@[simp] theorem State.consumePeriod_clockAcc : (s.consumePeriod).clockAcc = s.clockAcc - 1 / s.cfg.clockHz := rfl
@[simp] theorem State.consumePeriod_cfg : (s.consumePeriod).cfg = s.cfg := rfl
@[simp] theorem State.consumePeriod_draws : (s.consumePeriod).draws = s.draws := rfl
@[simp] theorem State.consumePeriod_started : (s.consumePeriod).started = s.started := rfl
@[simp] theorem State.consumePeriod_schedule : (s.consumePeriod).schedule = s.schedule := rfl
@[simp] theorem State.consumePeriod_byteAt (c : Nat) : (s.consumePeriod).byteAt c = s.byteAt c := rfl

/-! ### `readyToFetch` -/

@[simp] theorem State.readyToFetch_mem : (s.readyToFetch).mem = s.mem := rfl
@[simp] theorem State.readyToFetch_V : (s.readyToFetch).V = s.V := rfl
@[simp] theorem State.readyToFetch_I : (s.readyToFetch).I = s.I := rfl
@[simp] theorem State.readyToFetch_pc : (s.readyToFetch).pc = fetchPoint s := rfl
@[simp] theorem State.readyToFetch_stack : (s.readyToFetch).stack = s.stack := rfl
@[simp] theorem State.readyToFetch_sp : (s.readyToFetch).sp = s.sp := rfl
@[simp] theorem State.readyToFetch_DT : (s.readyToFetch).DT = s.DT := rfl
@[simp] theorem State.readyToFetch_ST : (s.readyToFetch).ST = s.ST := rfl
@[simp] theorem State.readyToFetch_keys : (s.readyToFetch).keys = s.keys := rfl
@[simp] theorem State.readyToFetch_awaited : (s.readyToFetch).awaited = none := rfl
@[simp] theorem State.readyToFetch_fb : (s.readyToFetch).fb = s.fb := rfl
@[simp] theorem State.readyToFetch_tickAcc : (s.readyToFetch).tickAcc = s.tickAcc := rfl
@[simp] theorem State.readyToFetch_clockAcc : (s.readyToFetch).clockAcc = s.clockAcc := rfl
@[simp] theorem State.readyToFetch_cfg : (s.readyToFetch).cfg = s.cfg := rfl
@[simp] theorem State.readyToFetch_draws : (s.readyToFetch).draws = s.draws := rfl
@[simp] theorem State.readyToFetch_started : (s.readyToFetch).started = s.started := rfl
@[simp] theorem State.readyToFetch_schedule : (s.readyToFetch).schedule = [] := rfl
@[simp] theorem State.readyToFetch_byteAt (c : Nat) : (s.readyToFetch).byteAt c = s.byteAt c := rfl

/-! ### The tick check and the start of a slice -/

/-- The tick check touches the divider and the timers only. -/
theorem State.tickCheck_eq : s.tickCheck =
    { s with DT := s.tickCheck.DT, ST := s.tickCheck.ST, tickAcc := s.tickCheck.tickAcc } := by
  unfold State.tickCheck State.tick; split <;> rfl

@[simp] theorem State.tickCheck_mem : s.tickCheck.mem = s.mem := by rw [State.tickCheck_eq]
@[simp] theorem State.tickCheck_V : s.tickCheck.V = s.V := by rw [State.tickCheck_eq]
@[simp] theorem State.tickCheck_I : s.tickCheck.I = s.I := by rw [State.tickCheck_eq]
@[simp] theorem State.tickCheck_pc : s.tickCheck.pc = s.pc := by rw [State.tickCheck_eq]
@[simp] theorem State.tickCheck_stack : s.tickCheck.stack = s.stack := by rw [State.tickCheck_eq]
@[simp] theorem State.tickCheck_sp : s.tickCheck.sp = s.sp := by rw [State.tickCheck_eq]
@[simp] theorem State.tickCheck_keys : s.tickCheck.keys = s.keys := by rw [State.tickCheck_eq]
@[simp] theorem State.tickCheck_awaited : s.tickCheck.awaited = s.awaited := by rw [State.tickCheck_eq]
@[simp] theorem State.tickCheck_fb : s.tickCheck.fb = s.fb := by rw [State.tickCheck_eq]
@[simp] theorem State.tickCheck_clockAcc : s.tickCheck.clockAcc = s.clockAcc := by rw [State.tickCheck_eq]
@[simp] theorem State.tickCheck_cfg : s.tickCheck.cfg = s.cfg := by rw [State.tickCheck_eq]
@[simp] theorem State.tickCheck_draws : s.tickCheck.draws = s.draws := by rw [State.tickCheck_eq]
@[simp] theorem State.tickCheck_started : s.tickCheck.started = s.started := by rw [State.tickCheck_eq]
@[simp] theorem State.tickCheck_schedule : s.tickCheck.schedule = s.schedule := by rw [State.tickCheck_eq]
@[simp] theorem State.tickCheck_byteAt (c : Nat) : s.tickCheck.byteAt c = s.byteAt c := by rw [State.tickCheck_eq]; rfl

@[simp] theorem State.beginSlice_mem : s.beginSlice.mem = s.mem := State.tickCheck_mem s
@[simp] theorem State.beginSlice_V : s.beginSlice.V = s.V := State.tickCheck_V s
@[simp] theorem State.beginSlice_I : s.beginSlice.I = s.I := State.tickCheck_I s
@[simp] theorem State.beginSlice_pc : s.beginSlice.pc = s.pc := State.tickCheck_pc s
@[simp] theorem State.beginSlice_stack : s.beginSlice.stack = s.stack := State.tickCheck_stack s
@[simp] theorem State.beginSlice_sp : s.beginSlice.sp = s.sp := State.tickCheck_sp s
@[simp] theorem State.beginSlice_DT : s.beginSlice.DT = s.tickCheck.DT := rfl
@[simp] theorem State.beginSlice_ST : s.beginSlice.ST = s.tickCheck.ST := rfl
@[simp] theorem State.beginSlice_keys : s.beginSlice.keys = s.keys := State.tickCheck_keys s
@[simp] theorem State.beginSlice_awaited : s.beginSlice.awaited = s.awaited := State.tickCheck_awaited s
@[simp] theorem State.beginSlice_fb : s.beginSlice.fb = s.fb := State.tickCheck_fb s
@[simp] theorem State.beginSlice_tickAcc : s.beginSlice.tickAcc = s.tickCheck.tickAcc := rfl
@[simp] theorem State.beginSlice_clockAcc : s.beginSlice.clockAcc = s.clockAcc := State.tickCheck_clockAcc s
@[simp] theorem State.beginSlice_cfg : s.beginSlice.cfg = s.cfg := State.tickCheck_cfg s
@[simp] theorem State.beginSlice_draws : s.beginSlice.draws = s.draws := State.tickCheck_draws s
@[simp] theorem State.beginSlice_started : s.beginSlice.started = true := rfl
@[simp] theorem State.beginSlice_schedule : s.beginSlice.schedule = s.schedule := State.tickCheck_schedule s
@[simp] theorem State.beginSlice_byteAt (c : Nat) : s.beginSlice.byteAt c = s.byteAt c := State.tickCheck_byteAt s c

@[simp] theorem State.takeEvent_tickCheck_DT : s.takeEvent.tickCheck.DT = s.tickCheck.DT := by
  unfold State.tickCheck State.takeEvent; split <;> simp_all
@[simp] theorem State.takeEvent_tickCheck_ST : s.takeEvent.tickCheck.ST = s.tickCheck.ST := by
  unfold State.tickCheck State.takeEvent; split <;> simp_all
@[simp] theorem State.takeEvent_tickCheck_tickAcc : s.takeEvent.tickCheck.tickAcc = s.tickCheck.tickAcc := by
  unfold State.tickCheck State.takeEvent; split <;> simp_all

end Sys2Proof.Machine
end

