-- ==== Sys2Proof/Laws/Memory.lean ====
section
/-! SUPPORT. The laws of memory: a read after a write to the same address gives the byte written, a write leaves every other
address alone, and every write keeps the canonical form; the same for runs of bytes. -/

namespace Sys2Proof.Machine

variable {font : Font}

/-! ### The list -/

theorem Memory.read_cons_other {m : Memory} {a c : Nat} {b : Byte} (h : c ≠ a) :
    Memory.read font (Memory.cons font a b m) c = Memory.read font m c := by
  unfold Memory.cons; split <;> simp [Memory.read, h]

theorem Memory.wfFrom_mono {m : Memory} {lo lo' : Nat} (hle : lo' ≤ lo) (h : Memory.wfFrom font lo m = true) :
    Memory.wfFrom font lo' m = true := by
  cases m with
  | nil => rfl
  | cons p rest => simp [Memory.wfFrom] at h ⊢; exact ⟨⟨⟨by omega, h.1.1.2⟩, h.1.2⟩, h.2⟩

/-- An address below everything listed reads as its reset byte. -/
theorem Memory.read_of_lt {m : Memory} {lo a : Nat} (h : Memory.wfFrom font lo m = true) (ha : a < lo) :
    Memory.read font m a = resetByte font a := by
  induction m generalizing lo with
  | nil => rfl
  | cons p rest ih =>
    simp [Memory.wfFrom] at h
    have hne : a ≠ p.1 := by omega
    simp [Memory.read, hne, ih h.2 (by omega)]

theorem Memory.read_cons_same {m : Memory} {lo a : Nat} {b : Byte} (h : Memory.wfFrom font lo m = true) (ha : a < lo) :
    Memory.read font (Memory.cons font a b m) a = b := by
  unfold Memory.cons; split
  · next hb => rw [Memory.read_of_lt h ha, hb]
  · simp [Memory.read]

theorem Memory.wfFrom_cons {m : Memory} {lo a : Nat} {b : Byte} (h : Memory.wfFrom font (a + 1) m = true) (hlo : lo ≤ a)
    (ha : a < 4096) : Memory.wfFrom font lo (Memory.cons font a b m) = true := by
  unfold Memory.cons; split
  · exact Memory.wfFrom_mono (by omega) h
  · next hb => simp [Memory.wfFrom, hlo, ha, hb, h]

/-- A write leaves every other address alone, in any memory. -/
theorem Memory.read_write_other {m : Memory} {a c : Nat} {b : Byte} (h : c ≠ a) :
    Memory.read font (Memory.write font m a b) c = Memory.read font m c := by
  induction m with
  | nil => exact Memory.read_cons_other h
  | cons p rest ih =>
    obtain ⟨k, v⟩ := p
    simp only [Memory.write]
    split
    · rw [Memory.read_cons_other h]
    · split
      · next hk => subst hk; rw [Memory.read_cons_other h]; simp [Memory.read, h]
      · simp only [Memory.read, ih]

/-- A read after a write to the same address gives the byte written. -/
theorem Memory.read_write_same {m : Memory} {lo a : Nat} {b : Byte} (h : Memory.wfFrom font lo m = true) :
    Memory.read font (Memory.write font m a b) a = b := by
  induction m generalizing lo with
  | nil => exact Memory.read_cons_same (lo := a + 1) rfl (by omega)
  | cons p rest ih =>
    obtain ⟨k, v⟩ := p
    have h' := h
    simp [Memory.wfFrom] at h
    simp only [Memory.write]
    split
    · next hk => exact Memory.read_cons_same (lo := k) (by simp [Memory.wfFrom]; exact ⟨⟨h.1.1.2, h.1.2⟩, h.2⟩) hk
    · split
      · next hk => subst hk; exact Memory.read_cons_same h.2 (by omega)
      · next hk => simp only [Memory.read, hk, if_false]; exact ih h.2

/-- Every write inside the 4096 bytes keeps the canonical form. -/
theorem Memory.wfFrom_write {m : Memory} {lo a : Nat} {b : Byte} (h : Memory.wfFrom font lo m = true) (hlo : lo ≤ a)
    (ha : a < 4096) : Memory.wfFrom font lo (Memory.write font m a b) = true := by
  induction m generalizing lo with
  | nil => exact Memory.wfFrom_cons rfl hlo ha
  | cons p rest ih =>
    obtain ⟨k, v⟩ := p
    simp [Memory.wfFrom] at h
    simp only [Memory.write]
    split
    · next hk =>
      refine Memory.wfFrom_cons ?_ hlo ha
      simp [Memory.wfFrom]; exact ⟨⟨⟨by omega, h.1.1.2⟩, h.1.2⟩, h.2⟩
    · split
      · next hk => subst hk; exact Memory.wfFrom_cons h.2 hlo ha
      · next hk =>
        simp [Memory.wfFrom]
        exact ⟨⟨h.1.1, h.1.2⟩, ih h.2 (by omega)⟩

theorem Memory.wf_write {m : Memory} {a : Nat} {b : Byte} (h : Memory.wf font m = true) (ha : a < 4096) :
    Memory.wf font (Memory.write font m a b) = true := Memory.wfFrom_write h (Nat.zero_le a) ha

/-! ### The state's memory -/

theorem byteAt_writeByte_same {s : State} (h : s.memWf = true) (a : Nat) (b : Byte) : (s.writeByte a b).byteAt a = b :=
  Memory.read_write_same h

theorem byteAt_writeByte_other (s : State) {a c : Nat} (b : Byte) (h : c ≠ a) : (s.writeByte a b).byteAt c = s.byteAt c :=
  Memory.read_write_other h

theorem memWf_writeByte {s : State} (h : s.memWf = true) {a : Nat} (ha : a < 4096) (b : Byte) :
    (s.writeByte a b).memWf = true := Memory.wf_write h ha

/-- Reset memory is canonical, for any parameters. -/
theorem memWf_init (c : Config) : (State.init c).memWf = true := rfl

/-- Storing a run of bytes touches the memory only. -/
theorem writeBytes_eq (s : State) (a : Nat) (bs : List Byte) : s.writeBytes a bs = { s with mem := (s.writeBytes a bs).mem } := by
  induction bs generalizing s a with
  | nil => rfl
  | cons b bs ih => simp only [State.writeBytes]; rw [ih]; rfl

/-- Storing a run of bytes leaves every address outside the run alone. -/
theorem byteAt_writeBytes_other (s : State) {a c : Nat} {bs : List Byte} (h : ¬ (a ≤ c ∧ c < a + bs.length)) :
    (s.writeBytes a bs).byteAt c = s.byteAt c := by
  induction bs generalizing s a with
  | nil => rfl
  | cons b bs ih =>
    simp only [List.length_cons] at h
    simp only [State.writeBytes]
    rw [ih _ (by omega), byteAt_writeByte_other _ _ (by omega)]

theorem memWf_writeBytes {s : State} {a : Nat} {bs : List Byte} (h : s.memWf = true) (ha : bs = [] ∨ a + bs.length ≤ 4096) :
    (s.writeBytes a bs).memWf = true := by
  induction bs generalizing s a with
  | nil => exact h
  | cons b bs ih =>
    simp only [List.length_cons, reduceCtorEq, false_or] at ha
    exact ih (memWf_writeByte h (by omega) b) (.inr (by omega))

/-- The bytes stored are read back, each at its address. -/
theorem byteAt_writeBytes_same {s : State} {a : Nat} {bs : List Byte} (h : s.memWf = true) (hr : bs = [] ∨ a + bs.length ≤ 4096)
    (k : Nat) (hk : k < bs.length) : (s.writeBytes a bs).byteAt (a + k) = bs[k] := by
  induction bs generalizing s a k with
  | nil => exact absurd hk (by simp)
  | cons b bs ih =>
    simp only [List.length_cons, reduceCtorEq, false_or] at hr hk
    simp only [State.writeBytes]
    cases k with
    | zero =>
      rw [byteAt_writeBytes_other _ (by omega)]
      exact byteAt_writeByte_same h a b
    | succ k =>
      have := ih (s := s.writeByte a b) (a := a + 1) (memWf_writeByte h (by omega) b) (.inr (by omega)) k (by omega)
      rw [show a + (k + 1) = a + 1 + k by omega, this]; rfl

@[simp] theorem readBytes_length (s : State) (a n : Nat) : (s.readBytes a n).length = n := by
  induction n generalizing a with
  | zero => rfl
  | succ n ih => simp [State.readBytes, ih]

theorem readBytes_getElem (s : State) (a n k : Nat) (hk : k < n) :
    (s.readBytes a n)[k]'(by simpa using hk) = s.byteAt (a + k) := by
  induction n generalizing a k with
  | zero => omega
  | succ n ih =>
    cases k with
    | zero => rfl
    | succ k => simp [State.readBytes, ih (a + 1) k (by omega), show a + 1 + k = a + (k + 1) by omega]

end Sys2Proof.Machine
end

