-- ==== Sys2Proof/Laws/Outcome.lean ====
section
/-! SUPPORT. What each shared operation of the meanings can answer: raising a fault, the bounds check, a skip, a key skip, the
pushes and pops, and the bounded sets of registers. Later proofs cite these and do not unfold the operations. -/

namespace Sys2Proof.Machine

/-- The flag byte of a decided condition. -/
@[simp] theorem flagByte_decide (p : Prop) [Decidable p] : flagByte (decide p) = if p then 0x01#8 else 0x00#8 := by
  by_cases h : p <;> simp [flagByte, h]

/-- A flag byte is 0x00 or 0x01 (rule R14). -/
theorem flagByte_cases (b : Bool) : flagByte b = 0x00#8 ∨ flagByte b = 0x01#8 := by cases b <;> simp [flagByte]

/-- add's flag: the carry (rule R126). -/
theorem addFlag_eq (a b : Byte) : addFlag a b = if 255 < a.toNat + b.toNat then 0x01#8 else 0x00#8 := flagByte_decide _

/-- sub's and subn's flag: strictly greater (rules R127, R128). -/
theorem subFlag_eq (a b : Byte) : subFlag a b = if b.toNat < a.toNat then 0x01#8 else 0x00#8 := flagByte_decide _

/-- shift-right's flag as a number (rule R129). -/
theorem toNat_shiftRightFlag (a : Byte) : (shiftRightFlag a).toNat = a.toNat % 2 := by revert a; decide

/-- shift-left's flag as a number (rule R130). -/
theorem toNat_shiftLeftFlag (a : Byte) : (shiftLeftFlag a).toNat = a.toNat / 128 := by revert a; decide

/-- Raising a fault is the fault, with the state as it stands. -/
@[simp] theorem raise_eq (f : State → Fault) (s : State) : raise f s = .fault (f s) := rfl

/-- The range check in the terms of rule R47's table. -/
theorem inRange_iff (a n : Nat) : inRange a n = true ↔ n = 0 ∨ a + n - 1 ≤ 0xFFF := by simp [inRange]

/-- An access inside memory goes on. -/
theorem guardRange_of_inRange {k : Access} {first : Word} {n : Nat} {s t : State}
    (h : n = 0 ∨ first.toNat + n - 1 ≤ 0xFFF) : guardRange k first n s t = .next t := by
  simp [guardRange, (inRange_iff _ _).2 h]

/-- An access that touches a byte outside memory faults, and nothing has changed. -/
theorem guardRange_of_outside {k : Access} {first : Word} {n : Nat} {s t : State} (hn : 0 < n)
    (h : 0xFFF < first.toNat + n - 1) : guardRange k first n s t = .fault (.addressFault k first s) := by
  have : inRange first.toNat n = false := by simp [inRange]; omega
  simp [guardRange, this]

/-- Everything the bounds check can answer. -/
theorem guardRange_cases (k : Access) (first : Word) (n : Nat) (s t : State) :
    ((n = 0 ∨ first.toNat + n - 1 ≤ 0xFFF) ∧ guardRange k first n s t = .next t) ∨
    (0 < n ∧ 0xFFF < first.toNat + n - 1 ∧ guardRange k first n s t = .fault (.addressFault k first s)) := by
  by_cases h : n = 0 ∨ first.toNat + n - 1 ≤ 0xFFF
  · exact .inl ⟨h, guardRange_of_inRange h⟩
  · exact .inr ⟨by omega, by omega, guardRange_of_outside (by omega) (by omega)⟩

/-- A taken skip advances `pc`. -/
@[simp] theorem skipIf_true (s : State) : skipIf true s = .next s.advancePc := rfl

/-- An untaken skip changes nothing. -/
@[simp] theorem skipIf_false (s : State) : skipIf false s = .next s := rfl

/-- Everything a skip can answer. -/
theorem skipIf_cases (c : Bool) (s : State) :
    (c = true ∧ skipIf c s = .next s.advancePc) ∨ (c = false ∧ skipIf c s = .next s) := by cases c <;> simp

/-- A value up to 15 is a key code. -/
theorem keyOf_of_key {v : Byte} {k : Key} (h : v.toNat = k.val) : keyOf v = some k := by
  have hv : v.toNat < 16 := by omega
  simp only [keyOf, hv, dif_pos, Option.some.injEq]
  exact Fin.ext h

/-- A value above 15 is none. -/
theorem keyOf_of_large {v : Byte} (h : 15 < v.toNat) : keyOf v = none := by
  simp [keyOf, show ¬ v.toNat < 16 by omega]

/-- Everything a key skip can answer. -/
theorem skipOnKey_cases (x : Reg) (wanted : Bool) (s : State) :
    (∃ k : Key, s.V[x].toNat = k.val ∧ skipOnKey x wanted s = skipIf (s.keys[k] == wanted) s) ∨
    (15 < s.V[x].toNat ∧ skipOnKey x wanted s = .fault (.keyIndexFault s.V[x] s)) := by
  by_cases h : 15 < s.V[x].toNat
  · right; refine ⟨h, ?_⟩
    simp only [skipOnKey, State.reg_eq, keyOf_of_large h, raise_eq]
  · left; refine ⟨⟨s.V[x].toNat, by omega⟩, rfl, ?_⟩
    simp only [skipOnKey, State.reg_eq, keyOf_of_key (k := ⟨s.V[x].toNat, by omega⟩) rfl]

/-- The registers of a block are those up to `x`. -/
@[simp] theorem mem_regsUpTo {k x : Reg} : k ∈ regsUpTo x ↔ k ≤ x := by simp [regsUpTo]

/-- A block of registers is an initial piece of the register file: its `k`-th register is `V[k]`. -/
theorem regsUpTo_eq_take (x : Reg) : regsUpTo x = (List.finRange 16).take (x.val + 1) := by
  revert x; decide

@[simp] theorem regsUpTo_length (x : Reg) : (regsUpTo x).length = x.val + 1 := by revert x; decide

theorem regsUpTo_getElem (x : Reg) (k : Nat) (h : k < (regsUpTo x).length) :
    (regsUpTo x)[k] = ⟨k, by simp at h; omega⟩ := by
  simp [regsUpTo_eq_take]

/-- Loading a list of registers touches the register file only. -/
theorem loadRegs_eq (s : State) (ks : List Reg) : s.loadRegs ks = { s with V := (s.loadRegs ks).V } := by
  induction ks generalizing s with
  | nil => rfl
  | cons k ks ih =>
    have h := ih (s.setV k (s.byteAt (s.base + k.val)))
    simp only [State.loadRegs, List.foldl_cons] at h ⊢
    rw [h]; rfl

/-- Each register of the list is loaded with the byte at base plus its number; the others keep their value. -/
theorem loadRegs_V (s : State) (ks : List Reg) (r : Reg) :
    (s.loadRegs ks).V[r] = if r ∈ ks then s.byteAt (s.base + r.val) else s.V[r] := by
  induction ks generalizing s with
  | nil => simp [State.loadRegs]
  | cons k ks ih =>
    have h := ih (s.setV k (s.byteAt (s.base + k.val)))
    simp only [State.loadRegs, List.foldl_cons] at h ⊢
    rw [h]
    by_cases hr : r ∈ ks
    · simp [hr, State.base]
    · by_cases hk : r = k
      · subst hk; simp [hr]
      · have hv : k.val ≠ r.val := fun e => hk (Fin.ext e.symm)
        simp [hr, hk, hv]

end Sys2Proof.Machine
end

