-- ==== Sys2Proof/Laws/PerInstr.lean ====
section
/-! SUPPORT. A statement about every instruction as syntax, one lemma per constructor: the canonical word of a well-formed
instruction is covered by the instruction's own row of the opcode map (spec/30_encoding.md rule R70). -/

namespace Sys2Proof.Laws.MatchesRow

/-- The instruction's row of the table covers its canonical word. -/
def Statement (i : Instr) : Prop :=
  i.wellFormed = true → (opcodeTable[i.row]?).map (fun r => r.covers (encode i)) = some true

/-- A row covers a word when the masked word is the pattern, as numbers. -/
theorem row_covers {p m w : Word} (h : (w &&& m).toNat = p.toNat) : some (OpcodeRow.covers ⟨p, m⟩ w) = some true := by
  simp [OpcodeRow.covers, BitVec.eq_of_toNat_eq h]

theorem clear : Statement (.clear) :=
  fun _ => by decide

theorem ret : Statement (.ret) :=
  fun _ => by decide

theorem sys (nnn : Addr) : Statement (.sys nnn) :=
  fun _ => row_covers (by rw [encode, toNat_and_F000, toNat_formNNN (by omega)]; simp; omega)

theorem jump (nnn : Addr) : Statement (.jump nnn) :=
  fun _ => row_covers (by rw [encode, toNat_and_F000, toNat_formNNN (by omega)]; simp; omega)

theorem call (nnn : Addr) : Statement (.call nnn) :=
  fun _ => row_covers (by rw [encode, toNat_and_F000, toNat_formNNN (by omega)]; simp; omega)

theorem skipEqByte (x : Reg) (nn : Byte) : Statement (.skipEqByte x nn) :=
  fun _ => row_covers (by rw [encode, toNat_and_F000, toNat_formXNN (by omega)]; simp; omega)

theorem skipNeqByte (x : Reg) (nn : Byte) : Statement (.skipNeqByte x nn) :=
  fun _ => row_covers (by rw [encode, toNat_and_F000, toNat_formXNN (by omega)]; simp; omega)

theorem skipEq (x : Reg) (y : Reg) : Statement (.skipEq x y) :=
  fun _ => row_covers (by rw [encode, toNat_and_F000, toNat_formXYN (by omega)]; simp; omega)

theorem setByte (x : Reg) (nn : Byte) : Statement (.setByte x nn) :=
  fun _ => row_covers (by rw [encode, toNat_and_F000, toNat_formXNN (by omega)]; simp; omega)

theorem addByte (x : Reg) (nn : Byte) : Statement (.addByte x nn) :=
  fun _ => row_covers (by rw [encode, toNat_and_F000, toNat_formXNN (by omega)]; simp; omega)

theorem setReg (x : Reg) (y : Reg) : Statement (.setReg x y) :=
  fun _ => row_covers (by rw [encode, toNat_and_F00F, toNat_formXYN (by omega)]; simp; omega)

theorem or (x : Reg) (y : Reg) : Statement (.or x y) :=
  fun _ => row_covers (by rw [encode, toNat_and_F00F, toNat_formXYN (by omega)]; simp; omega)

theorem and (x : Reg) (y : Reg) : Statement (.and x y) :=
  fun _ => row_covers (by rw [encode, toNat_and_F00F, toNat_formXYN (by omega)]; simp; omega)

theorem xor (x : Reg) (y : Reg) : Statement (.xor x y) :=
  fun _ => row_covers (by rw [encode, toNat_and_F00F, toNat_formXYN (by omega)]; simp; omega)

theorem add (x : Reg) (y : Reg) : Statement (.add x y) :=
  fun _ => row_covers (by rw [encode, toNat_and_F00F, toNat_formXYN (by omega)]; simp; omega)

theorem sub (x : Reg) (y : Reg) : Statement (.sub x y) :=
  fun _ => row_covers (by rw [encode, toNat_and_F00F, toNat_formXYN (by omega)]; simp; omega)

theorem shiftRight (x : Reg) : Statement (.shiftRight x) :=
  fun _ => row_covers (by rw [encode, toNat_and_F00F, toNat_formXYN (by omega)]; simp; omega)

theorem subn (x : Reg) (y : Reg) : Statement (.subn x y) :=
  fun _ => row_covers (by rw [encode, toNat_and_F00F, toNat_formXYN (by omega)]; simp; omega)

theorem shiftLeft (x : Reg) : Statement (.shiftLeft x) :=
  fun _ => row_covers (by rw [encode, toNat_and_F00F, toNat_formXYN (by omega)]; simp; omega)

theorem skipNeq (x : Reg) (y : Reg) : Statement (.skipNeq x y) :=
  fun _ => row_covers (by rw [encode, toNat_and_F000, toNat_formXYN (by omega)]; simp; omega)

theorem setIndex (nnn : Addr) : Statement (.setIndex nnn) :=
  fun _ => row_covers (by rw [encode, toNat_and_F000, toNat_formNNN (by omega)]; simp; omega)

theorem jumpV0 (nnn : Addr) : Statement (.jumpV0 nnn) :=
  fun _ => row_covers (by rw [encode, toNat_and_F000, toNat_formNNN (by omega)]; simp; omega)

theorem rand (x : Reg) (nn : Byte) : Statement (.rand x nn) :=
  fun _ => row_covers (by rw [encode, toNat_and_F000, toNat_formXNN (by omega)]; simp; omega)

theorem draw (x : Reg) (y : Reg) (n : Fin 16) : Statement (.draw x y n) :=
  fun _ => row_covers (by rw [encode, toNat_and_F000, toNat_formXYN (by omega)]; simp; omega)

theorem skipPressed (x : Reg) : Statement (.skipPressed x) :=
  fun _ => row_covers (by rw [encode, toNat_and_F0FF, toNat_formXNN (by omega)]; simp; omega)

theorem skipNotPressed (x : Reg) : Statement (.skipNotPressed x) :=
  fun _ => row_covers (by rw [encode, toNat_and_F0FF, toNat_formXNN (by omega)]; simp; omega)

theorem getDelay (x : Reg) : Statement (.getDelay x) :=
  fun _ => row_covers (by rw [encode, toNat_and_F0FF, toNat_formXNN (by omega)]; simp; omega)

theorem awaitKey (x : Reg) : Statement (.awaitKey x) :=
  fun _ => row_covers (by rw [encode, toNat_and_F0FF, toNat_formXNN (by omega)]; simp; omega)

theorem setDelay (x : Reg) : Statement (.setDelay x) :=
  fun _ => row_covers (by rw [encode, toNat_and_F0FF, toNat_formXNN (by omega)]; simp; omega)

theorem setSound (x : Reg) : Statement (.setSound x) :=
  fun _ => row_covers (by rw [encode, toNat_and_F0FF, toNat_formXNN (by omega)]; simp; omega)

theorem addIndex (x : Reg) : Statement (.addIndex x) :=
  fun _ => row_covers (by rw [encode, toNat_and_F0FF, toNat_formXNN (by omega)]; simp; omega)

theorem setChar (x : Reg) : Statement (.setChar x) :=
  fun _ => row_covers (by rw [encode, toNat_and_F0FF, toNat_formXNN (by omega)]; simp; omega)

theorem storeBcd (x : Reg) : Statement (.storeBcd x) :=
  fun _ => row_covers (by rw [encode, toNat_and_F0FF, toNat_formXNN (by omega)]; simp; omega)

theorem storeRegs (x : Reg) : Statement (.storeRegs x) :=
  fun _ => row_covers (by rw [encode, toNat_and_F0FF, toNat_formXNN (by omega)]; simp; omega)

theorem loadRegs (x : Reg) : Statement (.loadRegs x) :=
  fun _ => row_covers (by rw [encode, toNat_and_F0FF, toNat_formXNN (by omega)]; simp; omega)

end Sys2Proof.Laws.MatchesRow
end

