-- ==== Sys2Proof/Laws/Screen.lean ====
section
/-! SUPPORT. The laws of the framebuffer: reading a cell after a cell has been set, and one pixel of a sprite. -/

namespace Sys2Proof.Machine

/-- Reading a cell after one has been set. -/
theorem getElem_setCell (f : Framebuffer) (y y' : Fin 32) (x x' : Fin 64) (b : Bool) :
    (f.setCell y x b)[y'][x'] = if y' = y ∧ x' = x then b else f[y'][x'] := by
  simp only [Framebuffer.setCell, Fin.getElem_fin, Vector.getElem_set]
  by_cases h : y.val = y'.val
  · have := Fin.ext h; subst this
    simp only [if_true, Vector.getElem_set]
    by_cases g : x.val = x'.val
    · have := Fin.ext g; subst this; simp
    · simp [g]; intro e; exact absurd (congrArg Fin.val e.symm) g
  · simp [h]; intro e; exact absurd (congrArg Fin.val e.symm) h

/-- Every cell of the blank screen is off. -/
@[simp] theorem blankScreen_cell (y : Fin 32) (x : Fin 64) : blankScreen[y][x] = false := by simp [blankScreen]

/-- A sprite bit that is 0 leaves everything as it is (rule R151). -/
theorem drawPixel_zero {d : DrawFlag} {x0 : Byte} {py : Fin 32} {b : Byte} {p : Blit} {c : Nat} (h : spriteBit b c = false) :
    drawPixel d x0 py b p c = p := by simp [drawPixel, h]

/-- A sprite bit that is 1 flips its cell and no other, and sets the flag on the transition (rule R150). -/
theorem drawPixel_one {d : DrawFlag} {x0 : Byte} {py : Fin 32} {b : Byte} {p : Blit} {c : Nat} (h : spriteBit b c = true) :
    (∀ (y : Fin 32) (x : Fin 64), (drawPixel d x0 py b p c).1[y][x] =
      if y = py ∧ x = spriteCol x0 c then !p.1[y][x] else p.1[y][x]) ∧
    (drawPixel d x0 py b p c).2 = (p.2 || drawFlagFires d p.1[py][spriteCol x0 c]) := by
  refine ⟨fun y x => ?_, by simp [drawPixel, h, Framebuffer.cell]⟩
  simp only [drawPixel, h, if_true, getElem_setCell]
  split
  · next e => obtain ⟨rfl, rfl⟩ := e; rfl
  · rfl

/-- The flag's transition as a proposition (rule R153). -/
theorem drawFlagFires_iff (d : DrawFlag) (old : Bool) : drawFlagFires d old = true ↔ FlagTransition d old := by
  cases d <;> cases old <;> simp [drawFlagFires, FlagTransition]

/-- A sprite of no rows draws nothing (rule R154). -/
@[simp] theorem blit_zero (s : State) (x y : Reg) : s.blit x y 0 = (s.fb, false) := rfl

end Sys2Proof.Machine
end

