-- ==== Sys2Proof/Laws/Step.lean ====
section
/-! SUPPORT. What a step, a slice and a cycle can answer, said once; later proofs cite these and do not unfold them. -/

namespace Sys2Proof.Machine

/-- A step whose next event is a slice is a slice. -/
theorem step_of_sliceNext {s : State} (h : SliceNext s) : step s = s.takeEvent.slice := by
  rcases h with h | ⟨rest, h⟩ <;> simp [step, nextEvent, h, deliver]

/-- A step delivers the first event of the schedule. -/
theorem step_of_event {s : State} {e : Event} {rest : List Event} (h : s.schedule = e :: rest) :
    step s = deliver e s.takeEvent ∧ s.takeEvent.schedule = rest := by
  simp [step, nextEvent, h]

/-- A suspended slice is its tick check. -/
theorem slice_of_awaited {s : State} {r : Reg} (h : s.awaited = some r) : s.slice = .next s.beginSlice := by
  simp [State.slice, h]

/-- A slice that is not suspended is the tick check, then a cycle. -/
theorem slice_of_ready {s : State} (h : s.awaited = none) : s.slice = s.beginSlice.cycle := by simp [State.slice, h]

/-- Everything a cycle can do (rules R65, R173). -/
theorem cycle_cases (s : State) :
    (0xFFF ≤ s.pc.toNat ∧ s.cycle = .fault (.addressFault .fetch s.pc s)) ∨
    (s.pc.toNat ≤ 0xFFE ∧ ∃ e, decodeWord s.fetchWord = .error e ∧ s.cycle = .fault (.illegal s.fetchWord s.advancePc)) ∨
    (s.pc.toNat ≤ 0xFFE ∧ ∃ i, decodeWord s.fetchWord = .ok i ∧ s.cycle = exec i s.advancePc) := by
  by_cases h : s.pc.toNat ≤ 0xFFE
  · have hr : inRange s.pc.toNat 2 = true := (inRange_iff _ _).2 (by omega)
    cases hd : decodeWord s.fetchWord with
    | error e => exact .inr (.inl ⟨h, e, rfl, by simp [State.cycle, hr, hd]⟩)
    | ok i => exact .inr (.inr ⟨h, i, rfl, by simp [State.cycle, hr, hd]⟩)
  · have hr : inRange s.pc.toNat 2 = false := by simp [inRange]; omega
    exact .inl ⟨by omega, by simp [State.cycle, hr]⟩

/-- Everything a slice can do: suspended, a tick check; else a cycle after it (rule R180). -/
theorem slice_cases (s : State) :
    (∃ r, s.awaited = some r ∧ s.slice = .next s.beginSlice) ∨ (s.awaited = none ∧ s.slice = s.beginSlice.cycle) := by
  cases h : s.awaited with
  | none => exact .inr ⟨rfl, slice_of_ready h⟩
  | some r => exact .inl ⟨r, rfl, slice_of_awaited h⟩

/-- The bytes at `pc` decode exactly when the word fetched there does. -/
theorem decode_at_pc {s : State} {i : Instr} :
    decode [s.byteAt s.pc.toNat, s.byteAt (s.pc.toNat + 1)] = .ok (i, []) ↔ decodeWord s.fetchWord = .ok i := by
  rw [decode, State.fetchWord]
  generalize decodeWord (wordOfBytes (s.byteAt s.pc.toNat) (s.byteAt (s.pc.toNat + 1))) = d
  cases d <;> simp [Except.map]

/-- A property that every slice carries over is carried over by the wrapper's loop: to the next state, and to the state a fault
leaves. `P` holds before each slice is given its period. -/
theorem drain_induction {P : State → Prop} (hslice : ∀ s t, P s → 1 / (s.cfg.clockHz : Rat) ≤ s.clockAcc →
      s.consumePeriod.slice = .next t → P t)
    (hfault : ∀ s f, P s → 1 / (s.cfg.clockHz : Rat) ≤ s.clockAcc → s.consumePeriod.slice = .fault f → P f.after)
    (n : Nat) (s : State) (hs : P s) : (∀ t, drain n s = .next t → P t) ∧ (∀ f, drain n s = .fault f → P f.after) := by
  induction n generalizing s with
  | zero => simp only [drain]; exact ⟨fun t h => by cases h; exact hs, fun f h => by cases h⟩
  | succ n ih =>
    simp only [drain]
    split
    · next hp =>
      cases hsl : s.consumePeriod.slice with
      | next t => exact ih t (hslice s t hs hp hsl)
      | fault f => exact ⟨fun t h => (by cases h), fun g h => (by cases h; exact hfault s f hs hp hsl)⟩
      | refused r => exact ⟨fun t h => (by cases h), fun g h => (by cases h)⟩
    · exact ⟨fun t h => by cases h; exact hs, fun f h => by cases h⟩

end Sys2Proof.Machine
end

