-- ==== Sys2Proof/Laws/Timers.lean ====
section
/-! SUPPORT. The laws of the tick divider and the timers (spec/60_exceptions.md rules R181, R182). -/

namespace Sys2Proof.Machine

/-- One less, floor at zero. -/
theorem toNat_countDown (t : Byte) : (countDown t).toNat = t.toNat - 1 := by revert t; decide

/-- The tick check when the divider exceeds one tick period. -/
theorem tickCheck_of_exceeds {s : State} (h : s.cfg.clockHz < s.tickAcc + 60) :
    s.tickCheck = { s with DT := countDown s.DT, ST := countDown s.ST, tickAcc := s.tickAcc + 60 - s.cfg.clockHz } := by
  simp [State.tickCheck, h, State.tick]

/-- The tick check when it does not. -/
theorem tickCheck_of_within {s : State} (h : s.tickAcc + 60 ≤ s.cfg.clockHz) :
    s.tickCheck = { s with tickAcc := s.tickAcc + 60 } := by
  simp [State.tickCheck, Nat.not_lt.2 h]

/-- Valid parameters: `CLOCK_HZ` is at least 60 (rule R3). -/
theorem clockHz_of_valid {c : Config} (h : c.valid = true) : 60 ≤ c.clockHz := by simpa [Config.valid] using h

/-- The divider stays in its range 0 to `CLOCK_HZ` (rule R24). -/
theorem tickCheck_tickAcc_le {s : State} (h : s.tickAcc ≤ s.cfg.clockHz) (hz : 60 ≤ s.cfg.clockHz) :
    s.tickCheck.tickAcc ≤ s.cfg.clockHz := by
  by_cases hx : s.cfg.clockHz < s.tickAcc + 60
  · rw [tickCheck_of_exceeds hx]; simp only; omega
  · rw [tickCheck_of_within (by omega)]; simp only; omega

end Sys2Proof.Machine
end

