-- ==== Sys2Proof/Tests/Slice0.lean ====
section
/-! SUPPORT. Tests: the well-formedness check refuses ill-formed terms; every constructor's decoding shown by a word written out
from the spec's encoding of it; one or two worked vectors of spec/95_test_vectors.md an instruction, each one step from a small
state; the host's events; and a witness for the hypotheses of every statement that has any. Every expected value is the spec's. -/

namespace Sys2Proof.Tests

open Sys2Proof Sys2Proof.Machine

/-! ### Helpers -/

/-- The next state, when there is one. -/
def nextOf : Result → Option State
  | .next s => some s
  | .fault _ => none
  | .refused _ => none

/-- The state after one step of the machine after reset, changed by `f`, with the word `w` at `pc` (vectors of file 95). -/
def after (f : State → State) (w : Nat) : Option State := nextOf (step ((f State.reset).withFetchWord 16 w))

/-- The fault of the same step. -/
def faultOf (f : State → State) (w : Nat) : Option Fault :=
  match step ((f State.reset).withFetchWord 16 w) with
  | .fault g => some g
  | .next _ => none
  | .refused _ => none

/-- The fault's `pc`, when the fault is the one asked for. -/
def faultPc (isIt : Fault → Bool) (f : State → State) (w : Nat) : Option Word :=
  (faultOf f w).bind (fun g => if isIt g then some g.after.pc else none)

/-! ### Well-formedness: the one check, and a term it refuses at each of its two exceptions (R69, R70) -/

theorem test_wf_refuses_sys_0E0 : (Instr.sys 0x0E0#12).wellFormed = false := by decide
theorem test_wf_refuses_sys_0EE : (Instr.sys 0x0EE#12).wellFormed = false := by decide
theorem test_wf_accepts_sys_0E1 : (Instr.sys 0x0E1#12).wellFormed = true := by decide


/-! ### Decoding: a word of every row, from the patterns of R70 (digits in the order family, x, y, n) -/

theorem test_decode_clear : decodeWord 0x00E0#16 = .ok (.clear) := by decide
theorem test_decode_ret : decodeWord 0x00EE#16 = .ok (.ret) := by decide
theorem test_decode_sys : decodeWord 0x0123#16 = .ok (.sys 0x123#12) := by decide
theorem test_decode_jump : decodeWord 0x1ABC#16 = .ok (.jump 0xABC#12) := by decide
theorem test_decode_call : decodeWord 0x2ABC#16 = .ok (.call 0xABC#12) := by decide
theorem test_decode_skipEqByte : decodeWord 0x3125#16 = .ok (.skipEqByte 1 0x25#8) := by decide
theorem test_decode_skipNeqByte : decodeWord 0x4205#16 = .ok (.skipNeqByte 2 0x05#8) := by decide
theorem test_decode_skipEq : decodeWord 0x5347#16 = .ok (.skipEq 3 4) := by decide
theorem test_decode_setByte : decodeWord 0x6A2F#16 = .ok (.setByte 0xA 0x2F#8) := by decide
theorem test_decode_addByte : decodeWord 0x7103#16 = .ok (.addByte 1 0x03#8) := by decide
theorem test_decode_setReg : decodeWord 0x8AB0#16 = .ok (.setReg 0xA 0xB) := by decide
theorem test_decode_or : decodeWord 0x8121#16 = .ok (.or 1 2) := by decide
theorem test_decode_and : decodeWord 0x8122#16 = .ok (.and 1 2) := by decide
theorem test_decode_xor : decodeWord 0x8123#16 = .ok (.xor 1 2) := by decide
theorem test_decode_add : decodeWord 0x8AB4#16 = .ok (.add 0xA 0xB) := by decide
theorem test_decode_sub : decodeWord 0x8125#16 = .ok (.sub 1 2) := by decide
theorem test_decode_shiftRight : decodeWord 0x8346#16 = .ok (.shiftRight 3) := by decide
theorem test_decode_subn : decodeWord 0x8127#16 = .ok (.subn 1 2) := by decide
theorem test_decode_shiftLeft : decodeWord 0x834E#16 = .ok (.shiftLeft 3) := by decide
theorem test_decode_skipNeq : decodeWord 0x934F#16 = .ok (.skipNeq 3 4) := by decide
theorem test_decode_setIndex : decodeWord 0xA300#16 = .ok (.setIndex 0x300#12) := by decide
theorem test_decode_jumpV0 : decodeWord 0xB210#16 = .ok (.jumpV0 0x210#12) := by decide
theorem test_decode_rand : decodeWord 0xC30F#16 = .ok (.rand 3 0x0F#8) := by decide
theorem test_decode_draw : decodeWord 0xD12A#16 = .ok (.draw 1 2 0xA) := by decide
theorem test_decode_skipPressed : decodeWord 0xE59E#16 = .ok (.skipPressed 5) := by decide
theorem test_decode_skipNotPressed : decodeWord 0xE5A1#16 = .ok (.skipNotPressed 5) := by decide
theorem test_decode_getDelay : decodeWord 0xF207#16 = .ok (.getDelay 2) := by decide
theorem test_decode_awaitKey : decodeWord 0xF10A#16 = .ok (.awaitKey 1) := by decide
theorem test_decode_setDelay : decodeWord 0xF015#16 = .ok (.setDelay 0) := by decide
theorem test_decode_setSound : decodeWord 0xF118#16 = .ok (.setSound 1) := by decide
theorem test_decode_addIndex : decodeWord 0xF21E#16 = .ok (.addIndex 2) := by decide
theorem test_decode_setChar : decodeWord 0xF029#16 = .ok (.setChar 0) := by decide
theorem test_decode_storeBcd : decodeWord 0xF533#16 = .ok (.storeBcd 5) := by decide
theorem test_decode_storeRegs : decodeWord 0xF255#16 = .ok (.storeRegs 2) := by decide
theorem test_decode_loadRegs : decodeWord 0xF165#16 = .ok (.loadRegs 1) := by decide

/-- C40, C43, C46: undefined selectors are Illegal. -/
theorem test_decode_illegal_8AB8 : decodeWord 0x8AB8#16 = .error (.illegal 0x8AB8#16) := by decide
theorem test_decode_illegal_E000 : decodeWord 0xE000#16 = .error (.illegal 0xE000#16) := by decide
theorem test_decode_illegal_F175 : decodeWord 0xF175#16 = .error (.illegal 0xF175#16) := by decide

/-- R45, F1: the first byte is the high one. -/
theorem test_decode_bytes_big_endian : decode [0x12#8, 0x34#8, 0x00#8] = .ok (.jump 0x234#12, [0x00#8]) := by decide
theorem test_decode_truncated : decode [0x12#8] = .error .truncated := by decide
theorem test_decode_table_word : decodeTableWord 16 0xF265 = some (.loadRegs 2) := by decide

/-- Encoding against the words of file 95: `y` and `n` are ignored digits of 8346 and 5347, written 0. -/
theorem test_encode_add : encode (.add 0xA 0xB) = 0x8AB4#16 := by decide
theorem test_encode_draw : encode (.draw 1 2 0xA) = 0xD12A#16 := by decide
theorem test_encode_shiftRight : encode (.shiftRight 3) = 0x8306#16 := by decide
theorem test_encode_skipEq : encode (.skipEq 3 4) = 0x5340#16 := by decide

/-! ### Instructions: the vectors of file 95 -/

/-- A1 -/
theorem test_clear : (after (fun s => s.setFb (s.fb.setCell 3 5 true)) 0x00E0).map (fun t => (t.fb[3][5], t.pc)) = some (false, 0x202#16) := by decide

/-- A2 -/
theorem test_return : (after (fun s => { s with pc := 0xABC#16, sp := 1, stack := s.stack.set 0 0x0AAC#16 }) 0x00EE).map (fun t => (t.sp, t.pc, t.stack[0])) = some (0, 0x0AAC#16, 0x0AAC#16) := by decide

/-- A3 -/
theorem test_return_underflow : faultPc (fun f => f matches .stackUnderflow _) (fun s => s) 0x00EE = some 0x202#16 := by decide

/-- A5 -/
theorem test_sys : faultPc (fun f => f matches .unsupported 0x0123#16 _) (fun s => s) 0x0123 = some 0x202#16 := by decide

/-- A6 -/
theorem test_jump : (after (fun s => s) 0x1ABC).map (fun t => (t.pc, t.sp)) = some (0x0ABC#16, 0) := by decide

/-- A10, the last free slot -/
theorem test_call : (after (fun s => { s with sp := 15 }) 0x2300).map (fun t => (t.stack[15], t.sp, t.pc)) = some (0x0202#16, 16, 0x300#16) := by decide

/-- A11 -/
theorem test_call_overflow : faultPc (fun f => f matches .stackOverflow _) (fun s => { s with sp := 16 }) 0x2300 = some 0x202#16 := by decide

/-- A13, the sum wraps at 12 bits -/
theorem test_jumpV0 : (after (fun s => (State.setV s 0 0x02#8)) 0xBFFF).map (fun t => t.pc) = some 0x001#16 := by decide

/-- A14, never the register of the x digit -/
theorem test_jumpV0_register_zero : (after (fun s => (State.setV (State.setV s 0 0x04#8) 2 0x80#8)) 0xB210).map (fun t => t.pc) = some 0x214#16 := by decide

/-- B1 -/
theorem test_skipEqByte : (after (fun s => { s with pc := 0x208#16 }) 0x3100).map (fun t => t.pc) = some 0x20C#16 := by decide

/-- B2 -/
theorem test_skipEqByte_untaken : (after (fun s => { (State.setV s 1 0x01#8) with pc := 0x208#16 }) 0x3100).map (fun t => t.pc) = some 0x20A#16 := by decide

/-- B4 -/
theorem test_skipNeqByte : (after (fun s => { (State.setV s 2 0x05#8) with pc := 0x300#16 }) 0x4206).map (fun t => t.pc) = some 0x304#16 := by decide

/-- B3 -/
theorem test_skipNeqByte_untaken : (after (fun s => { (State.setV s 2 0x05#8) with pc := 0x300#16 }) 0x4205).map (fun t => t.pc) = some 0x302#16 := by decide

/-- B6, low nibble ignored -/
theorem test_skipEq : (after (fun s => (State.setV (State.setV s 3 7#8) 4 7#8)) 0x5347).map (fun t => t.pc) = some 0x204#16 := by decide

/-- B7 -/
theorem test_skipEq_untaken : (after (fun s => (State.setV (State.setV s 3 7#8) 4 8#8)) 0x5340).map (fun t => t.pc) = some 0x202#16 := by decide

/-- B9 -/
theorem test_skipNeq : (after (fun s => (State.setV (State.setV s 3 7#8) 4 8#8)) 0x9340).map (fun t => t.pc) = some 0x204#16 := by decide

/-- B10 -/
theorem test_skipNeq_untaken : (after (fun s => (State.setV (State.setV s 3 7#8) 4 7#8)) 0x9340).map (fun t => t.pc) = some 0x202#16 := by decide

/-- B12 -/
theorem test_skipPressed : (after (fun s => ((State.setV s 5 0x0A#8)).setKey 10 true) 0xE59E).map (fun t => t.pc) = some 0x204#16 := by decide

/-- B16 -/
theorem test_skipPressed_key_index : faultPc (fun f => f matches .keyIndexFault 0x10#8 _) (fun s => (State.setV s 5 0x10#8)) 0xE59E = some 0x202#16 := by decide

/-- B15 -/
theorem test_skipNotPressed : (after (fun s => ((State.setV s 5 0x0A#8)).setKey 10 true) 0xE5A1).map (fun t => t.pc) = some 0x202#16 := by decide

/-- B17 -/
theorem test_skipNotPressed_key_index : faultPc (fun f => f matches .keyIndexFault 0xFF#8 _) (fun s => (State.setV s 5 0xFF#8)) 0xE5A1 = some 0x202#16 := by decide

/-- C1 -/
theorem test_setByte : (after (fun s => s) 0x6A2F).map (fun t => (t.V[10], t.pc)) = some (0x2F#8, 0x202#16) := by decide

/-- C3, no flag -/
theorem test_addByte : (after (fun s => (State.setV (State.setV s 1 0xFE#8) 15 0x01#8)) 0x7103).map (fun t => (t.V[1], t.V[15])) = some (0x01#8, 0x01#8) := by decide

/-- C7 -/
theorem test_setReg : (after (fun s => (State.setV s 15 0x01#8)) 0x8EF0).map (fun t => t.V[14]) = some 0x01#8 := by decide

/-- C8 -/
theorem test_or : (after (fun s => (State.setV (State.setV (State.setV s 1 0xF0#8) 2 0x0F#8) 15 0x55#8)) 0x8121).map (fun t => (t.V[1], t.V[15])) = some (0xFF#8, 0x55#8) := by decide

/-- C9 -/
theorem test_and : (after (fun s => (State.setV (State.setV (State.setV s 1 0xF5#8) 2 0x3C#8) 15 0x55#8)) 0x8122).map (fun t => (t.V[1], t.V[15])) = some (0x34#8, 0x55#8) := by decide

/-- C10 -/
theorem test_xor : (after (fun s => (State.setV (State.setV (State.setV s 1 0xF5#8) 2 0x3C#8) 15 0x55#8)) 0x8123).map (fun t => (t.V[1], t.V[15])) = some (0xC9#8, 0x55#8) := by decide

/-- C12, the source's example E6 -/
theorem test_add : (after (fun s => (State.setV (State.setV s 10 0xFF#8) 11 0x05#8)) 0x8AB4).map (fun t => (t.V[10], t.V[15], t.V[11])) = some (0x04#8, 0x01#8, 0x05#8) := by decide

/-- C17, the carry stands -/
theorem test_add_into_flag : (after (fun s => (State.setV (State.setV s 15 0x10#8) 1 0x20#8)) 0x8F14).map (fun t => t.V[15]) = some 0x00#8 := by decide

/-- C20, strict comparison -/
theorem test_sub_equal : (after (fun s => (State.setV (State.setV (State.setV s 1 0x33#8) 2 0x33#8) 15 0x01#8)) 0x8125).map (fun t => (t.V[1], t.V[15])) = some (0x00#8, 0x00#8) := by decide

/-- C21 -/
theorem test_sub_borrow : (after (fun s => (State.setV (State.setV (State.setV s 1 0x05#8) 2 0x06#8) 15 0x01#8)) 0x8125).map (fun t => (t.V[1], t.V[15])) = some (0xFF#8, 0x00#8) := by decide

/-- C23 -/
theorem test_subn : (after (fun s => (State.setV (State.setV s 1 0x01#8) 2 0x10#8)) 0x8127).map (fun t => (t.V[1], t.V[15])) = some (0x0F#8, 0x01#8) := by decide

/-- C26 -/
theorem test_subn_into_flag : (after (fun s => (State.setV (State.setV s 15 0x01#8) 1 0x10#8)) 0x8F17).map (fun t => t.V[15]) = some 0x01#8 := by decide

/-- C28, y ignored -/
theorem test_shiftRight : (after (fun s => (State.setV (State.setV (State.setV s 3 0x04#8) 4 0xFF#8) 15 0x01#8)) 0x8346).map (fun t => (t.V[3], t.V[15], t.V[4])) = some (0x02#8, 0x00#8, 0xFF#8) := by decide

/-- C30, the shifted value stands -/
theorem test_shiftRight_flag : (after (fun s => (State.setV s 15 0x05#8)) 0x8F06).map (fun t => t.V[15]) = some 0x02#8 := by decide

/-- C31 -/
theorem test_shiftLeft : (after (fun s => (State.setV s 3 0x81#8)) 0x830E).map (fun t => (t.V[3], t.V[15])) = some (0x02#8, 0x01#8) := by decide

/-- C34 -/
theorem test_shiftLeft_flag : (after (fun s => (State.setV s 15 0x81#8)) 0x8F0E).map (fun t => t.V[15]) = some 0x02#8 := by decide

/-- C36: with `nn` = 0 the result is 0 whatever is drawn; the draw is counted -/
theorem test_rand : ∃ t, exec (.rand 3 0x00#8) ((State.setV State.reset 3 0x55#8)) = .next t ∧ t.V[3] = 0x00#8 ∧ t.draws = 1 := ⟨_, rfl, by simp, rfl⟩

/-- D2 -/
theorem test_setIndex : (after (fun s => s) 0xAFFF).map (fun t => t.I) = some 0x0FFF#16 := by decide

/-- D3, not masked -/
theorem test_addIndex : (after (fun s => ((State.setV s 2 0x05#8)).setI 0x0FFE#16) 0xF21E).map (fun t => t.I) = some 0x1003#16 := by decide

/-- D4 -/
theorem test_addIndex_wraps : (after (fun s => ((State.setV s 2 0x02#8)).setI 0xFFFF#16) 0xF21E).map (fun t => t.I) = some 0x0001#16 := by decide

/-- D6, glyph A -/
theorem test_setChar : (after (fun s => (State.setV s 0 0x1A#8)) 0xF029).map (fun t => t.I) = some 0x0032#16 := by decide

/-- D8 -/
theorem test_storeBcd : (after (fun s => ((State.setV s 0 0xFE#8)).setI 0x300#16) 0xF033).map (fun t => (t.byteAt 0x300, t.byteAt 0x301, t.byteAt 0x302)) = some (0x02#8, 0x05#8, 0x04#8) := by decide

/-- D15 -/
theorem test_storeBcd_outside : faultPc (fun f => f matches .addressFault .write 0xFFE#16 _) (fun s => ((State.setV s 0 0xC7#8)).setI 0xFFE#16) 0xF033 = some 0x202#16 := by decide

/-- D17 -/
theorem test_storeRegs : (after (fun s => ((State.setV (State.setV (State.setV (State.setV s 0 0x11#8) 1 0x22#8) 2 0x33#8) 3 0x44#8)).setI 0x400#16) 0xF255).map (fun t => (t.byteAt 0x400, t.byteAt 0x402, t.byteAt 0x403, t.I)) = some (0x11#8, 0x33#8, 0x00#8, 0x400#16) := by decide

/-- D20 -/
theorem test_storeRegs_outside : faultPc (fun f => f matches .addressFault .write 0xFF1#16 _) (fun s => s.setI 0xFF1#16) 0xFF55 = some 0x202#16 := by decide

/-- D22, the default font's first bytes -/
theorem test_loadRegs : (after (fun s => s) 0xFF65).map (fun t => t.V.toList) = some [0xF0#8, 0x90#8, 0x90#8, 0x90#8, 0xF0#8, 0x20#8, 0x60#8, 0x20#8, 0x20#8, 0x70#8, 0xF0#8, 0x10#8, 0xF0#8, 0x80#8, 0xF0#8, 0xF0#8] := by decide +kernel

/-- D25 -/
theorem test_loadRegs_outside : faultPc (fun f => f matches .addressFault .read 0x1000#16 _) (fun s => s.setI 0x1000#16) 0xF065 = some 0x202#16 := by decide

/-- G3, rows wrap to the top -/
theorem test_draw_wraps : (after (fun s => ((((State.setV s 2 30#8)).setI 0x300#16).writeBytes 0x300 [0x80#8, 0x80#8, 0x80#8])) 0xD123).map (fun t => (t.fb[30][0], t.fb[31][0], t.fb[0][0], t.fb[1][0], t.V[15])) = some (true, true, true, false, 0x01#8) := by decide +kernel

/-- G7: both cells go off, so no cell goes on -/
theorem test_draw_flag : (after (fun s => ((s.setI 0x300#16).writeByte 0x300 0xC0#8).setFb ((s.fb.setCell 0 0 true).setCell 0 1 true)) 0xD121).map (fun t => (t.fb[0][0], t.fb[0][1], t.V[15])) = some (false, false, 0x00#8) := by decide +kernel

/-- G7 with the parameter's other value -/
theorem test_draw_flag_on_to_off : (after (fun s => { ((s.setI 0x300#16).writeByte 0x300 0xC0#8).setFb ((s.fb.setCell 0 0 true).setCell 0 1 true) with cfg := { s.cfg with drawFlag := .onToOff } }) 0xD121).map (fun t => t.V[15]) = some 0x01#8 := by decide +kernel

/-- T1 -/
theorem test_getDelay : (after (fun s => s.setDT 8#8) 0xF207).map (fun t => t.V[2]) = some 0x08#8 := by decide

/-- T2 -/
theorem test_setDelay : (after (fun s => (State.setV s 0 0x0A#8)) 0xF015).map (fun t => t.DT) = some 10#8 := by decide

/-- T3 -/
theorem test_setSound : (after (fun s => (State.setV s 1 0x3C#8)) 0xF118).map (fun t => t.ST) = some 60#8 := by decide

/-- T4 -/
theorem test_awaitKey : (after (fun s => { s with pc := 0x204#16 }) 0xF10A).map (fun t => (t.awaited, t.pc, t.V[1])) = some (some 1, 0x206#16, 0x00#8) := by decide

/-! ### Fetch, slices, ticks and the host's events: sections 3 and 5 of file 95 -/

/-- F2: an odd `pc` is fetched from as it stands. -/
theorem test_fetch_odd_pc :
    (nextOf (step (({ State.reset with pc := 0x201#16 } : State).writeBytes 0x201 [0x60#8, 0x07#8]))).map
      (fun t => (t.V[0], t.pc)) = some (0x07#8, 0x203#16) := by decide

/-- F3: the fetch fault leaves `pc`; the tick check has run. -/
theorem test_fetch_fault :
    (match step ({ State.reset with pc := 0xFFF#16 } : State) with
      | .fault (.addressFault .fetch a u) => some (a, u.pc, u.tickAcc)
      | _ => none) = some (0xFFF#16, 0xFFF#16, 60) := by decide

/-- C40: an Illegal word leaves `pc` advanced and the registers alone. -/
theorem test_illegal :
    faultPc (fun f => f matches .illegal 0x8AB8#16 _) (fun s => s) 0x8AB8 = some 0x202#16 := by decide

/-- K1: a divider at 540 that gets 60 more exceeds 540 and ticks; the sound timer at 0 stays there. -/
theorem test_tick : (({ State.reset with tickAcc := 540, DT := 3#8 } : State).tickCheck.DT,
    ({ State.reset with tickAcc := 540, DT := 3#8 } : State).tickCheck.ST,
    ({ State.reset with tickAcc := 540, DT := 3#8 } : State).tickCheck.tickAcc) = (2#8, 0#8, 60) := by decide

/-- K5: the tick of a slice comes before its cycle. -/
theorem test_tick_before_cycle :
    (after (fun s => { s with tickAcc := 540, DT := 5#8, pc := 0x300#16 }) 0xF207).map (fun t => (t.V[2], t.DT, t.pc)) =
      some (0x04#8, 4#8, 0x302#16) := by decide

/-- H6: a suspended slice ticks and fetches nothing. -/
theorem test_suspended_slice :
    (nextOf (step ({ State.reset with awaited := some 1, pc := 0x206#16, DT := 10#8, tickAcc := 540 } : State))).map
      (fun t => (t.DT, t.tickAcc, t.pc, t.awaited)) = some (9#8, 60, 0x206#16, some 1) := by decide

/-- H2: the press writes the code into the awaited register and ends the wait. -/
theorem test_press_resolves :
    (nextOf (step ({ State.reset with awaited := some 1, schedule := [.press 7] } : State))).map
      (fun t => (t.keys[7], t.V[1], t.awaited)) = some (true, 0x07#8, none) := by decide

/-- H4: a release never ends the wait. -/
theorem test_release_keeps_waiting :
    (nextOf (step ({ State.reset.setKey 7 true with awaited := some 1, schedule := [.release 7] } : State))).map
      (fun t => (t.keys[7], t.awaited)) = some (false, some 1) := by decide

/-- L4: a two-byte image. -/
theorem test_load :
    (nextOf (step ({ State.reset with schedule := [.load [0x12#8, 0x00#8]] } : State))).map
      (fun t => (t.byteAt 0x200, t.byteAt 0x201, t.byteAt 0x202, t.schedule)) = some (0x12#8, 0x00#8, 0x00#8, []) := by decide

/-- R206: after the first slice `load` has no move. -/
theorem test_load_after_start :
    (step ({ State.reset with started := true, schedule := [.load [0x12#8]] } : State)) matches .refused .loadAfterStart := by
  decide

/-- S1: 1/60 second is 9 slices of the self-jump, with no tick and no time left. -/
theorem test_elapse :
    (nextOf (step ({ State.reset.withFetchWord 16 0x1200 with schedule := [.elapse (1 / 60)] } : State))).map
      (fun t => (t.clockAcc, t.tickAcc, t.pc)) = some (0, 540, 0x200#16) := by decide +kernel

/-- S5: the fault of the second slice is the call's outcome, and the remaining time stays. -/
theorem test_elapse_fault :
    (match step ({ State.reset.writeBytes 0x200 [0x60#8, 0x01#8, 0x01#8, 0x23#8] with schedule := [.elapse 1] } : State) with
      | .fault (.unsupported w u) => some (w, u.clockAcc, u.V[0], u.pc)
      | _ => none) = some (0x0123#16, 269 / 270, 0x01#8, 0x204#16) := by decide +kernel

/-- D16 and R43: a store below 0x200 is performed; reset memory lists nothing and reads as the font. -/
theorem test_store_into_font : ((State.reset.writeByte 0 0x01#8).byteAt 0, State.reset.byteAt 0) = (0x01#8, 0xF0#8) := by decide

/-- Writing back what an unlisted address reads as removes the entry: equal memories are equal lists. -/
theorem test_memory_canonical : ((State.reset.writeByte 0x300 7#8).writeByte 0x300 0#8).mem = [] := by decide

/-- P5: a host that ignores the fault goes on at the word after it. -/
theorem test_resume_ignore :
    ((faultOf (fun s => s) 0x0123).bind (fun f => f.resume .ignore)).map (fun t => t.pc) = some 0x202#16 := by decide

/-! ### Witnesses: a state and operands that meet all the hypotheses of each statement that has any -/

theorem witness_ResetMeetsTheInvariants :
    defaultConfig.valid = true ∧ defaultConfig.resetPc.toNat ≤ 0x1002 := by decide

theorem witness_ResetMeetsTheInvariants_boundary :
    ({ defaultConfig with clockHz := 60, resetPc := 0x1002#16 } : Config).valid = true ∧
    ({ defaultConfig with clockHz := 60, resetPc := 0x1002#16 } : Config).resetPc.toNat ≤ 0x1002 := by decide

theorem witness_ResetEventRestoresCreation :
    ({ State.reset with schedule := [.reset] } : State).schedule = .reset :: [] := rfl

theorem witness_UndefinedWordsAreExactlyThoseListed :
    IllegalWord 0x8008#16 ∧ IllegalWord 0xEFFF#16 ∧ IllegalWord 0xFFFF#16 ∧ UnsupportedWord 0x0000#16 ∧ UnsupportedWord 0x0FFF#16 ∧
    (¬ IllegalWord 0x800E#16 ∧ ¬ UnsupportedWord 0x800E#16) ∧ (¬ IllegalWord 0x00EE#16 ∧ ¬ UnsupportedWord 0x00EE#16) := by
  unfold IllegalWord UnsupportedWord
  refine ⟨?_, ?_, ?_, ?_, ?_, ⟨?_, ?_⟩, ⟨?_, ?_⟩⟩ <;> decide

theorem witness_DispatcherAgreesWithOpcodeTable :
    decodeWord 0x1000#16 = .ok (.jump 0x000#12) ∧ decodeWord 0xFFFF#16 = .error (.illegal 0xFFFF#16) := by decide

theorem witness_DecodeOfEncodeIsTheInstruction :
    (Instr.sys 0xFFF#12).wellFormed = true ∧ (Instr.draw 15 15 15).wellFormed = true := by decide

theorem witness_DecodedInstructionReencodes :
    decodeWord 0x5FFF#16 = .ok (.skipEq 15 15) ∧ decodeWord 0x80F6#16 = .ok (.shiftRight 0) := by decide

theorem witness_StepRunsTheDecodedInstruction :
    SliceNext (State.reset.withFetchWord 16 0x1ABC) ∧ (State.reset.withFetchWord 16 0x1ABC).awaited = none ∧
    (State.reset.withFetchWord 16 0x1ABC).pc.toNat ≤ 0xFFE ∧
    decode [(State.reset.withFetchWord 16 0x1ABC).byteAt 0x200, (State.reset.withFetchWord 16 0x1ABC).byteAt 0x201] =
      .ok (.jump 0xABC#12, []) := ⟨.inl rfl, rfl, by decide, by decide⟩

theorem witness_StepRunsTheDecodedInstruction_boundary :
    SliceNext ({ State.reset.writeBytes 0xFFE [0x6A#8, 0x01#8] with pc := 0xFFE#16, schedule := [.slice, .press 3] } : State) ∧
    (State.reset.writeBytes 0xFFE [0x6A#8, 0x01#8]).awaited = none ∧ (0xFFE#16).toNat ≤ 0xFFE ∧
    decode [(State.reset.writeBytes 0xFFE [0x6A#8, 0x01#8]).byteAt 0xFFE, (State.reset.writeBytes 0xFFE [0x6A#8, 0x01#8]).byteAt 0xFFF] =
      .ok (.setByte 0xA 0x01#8, []) := ⟨.inr ⟨_, rfl⟩, rfl, by decide, by decide⟩

theorem witness_FetchIsBigEndian :
    SliceNext State.reset ∧ State.reset.awaited = none ∧ State.reset.pc.toNat ≤ 0xFFE ∧
    (0x0000#16).toNat = (State.reset.byteAt 0x200).toNat * 256 + (State.reset.byteAt 0x201).toNat ∧ decodeWord 0x0000#16 = .ok (.sys 0x000#12) ∧
    (0x8009#16).toNat = ((State.reset.writeBytes 0xFFE [0x80#8, 0x09#8]).byteAt 0xFFE).toNat * 256 +
      ((State.reset.writeBytes 0xFFE [0x80#8, 0x09#8]).byteAt 0xFFF).toNat ∧ decodeWord 0x8009#16 = .error (.illegal 0x8009#16) := ⟨.inl rfl, rfl, by decide, by decide, by decide, by decide, by decide⟩

theorem witness_TickTakesOneFromEachTimer :
    State.reset.DT = 0x00#8 ∧ (State.reset.setDT 0xFF#8).DT ≠ 0x00#8 ∧ State.reset.ST = 0x00#8 ∧ (State.reset.setST 0x01#8).ST ≠ 0x00#8 := by decide

theorem witness_PlacedWordIsRunNext :
    State.reset.memWf = true ∧ decodeTableWord 16 0x1200 = some (.jump 0x200#12) := by decide

theorem witness_TickCheckDividesTheClock :
    State.reset.cfg.clockHz < ({ State.reset with tickAcc := 481 } : State).tickAcc + 60 ∧
    ({ State.reset with tickAcc := 480 } : State).tickAcc + 60 ≤ State.reset.cfg.clockHz := by decide

theorem witness_SuspendedSliceOnlyTicks :
    SliceNext ({ State.reset with awaited := some 15 } : State) ∧ ({ State.reset with awaited := some 15 } : State).awaited = some 15 := ⟨.inl rfl, rfl⟩

theorem witness_TickCheckRunsInEverySlice :
    SliceNext State.reset ∧ (∃ f, step State.reset = .fault f) ∧
    SliceNext (State.reset.withFetchWord 16 0x1200) ∧ ∃ t, step (State.reset.withFetchWord 16 0x1200) = .next t := ⟨.inl rfl, ⟨_, rfl⟩, .inl rfl, ⟨_, rfl⟩⟩

theorem witness_TimersCountDownAtSixtyHertz :
    State.reset.cfg.valid = true ∧ ({ State.reset with awaited := some 0 } : State).tickAcc = 0 ∧
    ({ State.reset with awaited := some 0 } : State).awaited = some 0 ∧ ({ State.reset with awaited := some 0 } : State).schedule = [] := ⟨by decide, rfl, rfl, rfl⟩

theorem witness_FetchOutsideMemoryFaults :
    SliceNext ({ State.reset with pc := 0xFFF#16 } : State) ∧ State.reset.awaited = none ∧ 0xFFF ≤ (0xFFF#16).toNat := ⟨.inl rfl, rfl, by decide⟩

theorem witness_IllegalAndUnsupportedAdvancePcOnly :
    SliceNext (State.reset.writeByte 0x200 0x80#8) ∧
    (0x0000#16).toNat = (State.reset.byteAt 0x200).toNat * 256 + (State.reset.byteAt 0x201).toNat ∧ UnsupportedWord 0x0000#16 ∧
    (0xFFFF#16).toNat = ((State.reset.writeBytes 0xFFE [0xFF#8, 0xFF#8]).byteAt 0xFFE).toNat * 256 +
      ((State.reset.writeBytes 0xFFE [0xFF#8, 0xFF#8]).byteAt 0xFFF).toNat ∧ IllegalWord 0xFFFF#16 := by
  unfold IllegalWord UnsupportedWord; exact ⟨.inl rfl, by decide⟩

theorem witness_CallPushesTheReturnAddress :
    ({ State.reset with sp := 15 } : State).sp.val = (15 : Fin 16).val ∧ State.reset.sp.val = (0 : Fin 16).val ∧
    ({ State.reset with sp := 16 } : State).sp.val = 16 := by decide

theorem witness_ReturnPopsTheReturnAddress :
    ({ State.reset with sp := 16 } : State).sp.val = (15 : Fin 16).val + 1 ∧ ({ State.reset with sp := 1 } : State).sp.val = (0 : Fin 16).val + 1 ∧
    State.reset.sp.val = 0 := by decide

theorem witness_ReturnUndoesCall :
    ∃ t, exec (.call 0xABC#12) ({ State.reset with pc := 0xAAC#16 } : State) = .next t ∧ t.stack = t.stack ∧ t.sp = t.sp := ⟨_, rfl, rfl, rfl⟩

theorem witness_SysAlwaysFaultsUnsupported :
    family 0x00FF#16 = 0x0 ∧ (views 0x00FF#16).nnn ≠ 0x0E0#12 ∧ (views 0x00FF#16).nnn ≠ 0x0EE#12 := by decide

theorem witness_JumpsSetTheProgramCounter :
    family 0x1FFF#16 = 0x1 ∧ family 0xB000#16 = 0xB := by decide

theorem witness_CompareSkipsAdvanceWhenConditionHolds :
    State.reset.V[3] = 0x00#8 ∧ State.reset.V[3] ≠ 0xFF#8 ∧ State.reset.V[3] = State.reset.V[15] ∧
    (State.reset.setV 3 1#8).V[3] ≠ (State.reset.setV 3 1#8).V[4] ∧
    family 0x3000#16 = 0x3 ∧ family 0x4000#16 = 0x4 ∧ family 0x5000#16 = 0x5 ∧ family 0x9FFF#16 = 0x9 := by decide

theorem witness_KeySkipsLookAtTheKeyTable :
    (State.reset.setV 5 15#8).V[5].toNat = (15 : Key).val ∧ State.reset.keys[(15 : Key)] = false ∧
    (State.reset.setKey 15 true).keys[(15 : Key)] = true ∧ 15 < (State.reset.setV 5 16#8).V[5].toNat ∧
    family 0xE09E#16 = 0xE ∧ (views 0xE09E#16).nn = 0x9E#8 ∧ family 0xEFA1#16 = 0xE ∧ (views 0xEFA1#16).nn = 0xA1#8 := by decide

/-- Also for ByteImmediatesWriteTheirRegister, BitwiseOperationsWriteTheirRegister, AddWrapsAndFlagsTheCarry,
SubtractWrapsAndFlagsStrictly and ShiftsMoveOneBitIntoTheFlag: the words of their clauses, and a register that is not 15. -/
theorem witness_Alu :
    family 0x8AB0#16 = 0x8 ∧ (views 0x8AB0#16).n = 0x0 ∧ (views 0x8AB1#16).n = 0x1 ∧ (views 0x8AB2#16).n = 0x2 ∧ (views 0x8AB3#16).n = 0x3 ∧
    (views 0x8AB4#16).n = 0x4 ∧ (views 0x8AB5#16).n = 0x5 ∧ (views 0x8AB6#16).n = 0x6 ∧ (views 0x8AB7#16).n = 0x7 ∧ (views 0x8ABE#16).n = 0xE ∧
    ((14 : Reg) ≠ 15) ∧ family 0x6000#16 = 0x6 ∧ family 0x7000#16 = 0x7 ∧ family 0xC000#16 = 0xC := by decide

theorem witness_RandMasksAFreshByte :
    (0x0F#8)[(7 : Fin 8)] = false ∧ (0x0F#8)[(0 : Fin 8)] = true := by decide

theorem witness_IndexInstructionsSetTheIndex :
    family 0xA000#16 = 0xA ∧ family 0xFF1E#16 = 0xF ∧ (views 0xFF1E#16).nn = 0x1E#8 ∧ (views 0xF029#16).nn = 0x29#8 := by decide

theorem witness_StoreBcdStoresTheDigits :
    State.reset.memWf = true ∧ (State.reset.setI 0xFFD#16).base + 2 ≤ 0xFFF ∧ 0xFFF < (State.reset.setI 0xFFE#16).base + 2 ∧
    family 0xF033#16 = 0xF ∧ (views 0xF033#16).nn = 0x33#8 := by decide

theorem witness_StoreRegsStoresTheBlock :
    State.reset.memWf = true ∧ (State.reset.setI 0xFF0#16).base + (15 : Reg).val ≤ 0xFFF ∧
    0xFFF < (State.reset.setI 0xFF1#16).base + (15 : Reg).val ∧ (15 : Reg) ≤ 15 ∧ (views 0xFF55#16).nn = 0x55#8 := by decide

theorem witness_LoadRegsLoadsTheBlock :
    (State.reset.setI 0xFFF#16).base + (0 : Reg).val ≤ 0xFFF ∧ 0xFFF < (State.reset.setI 0x1000#16).base + (0 : Reg).val ∧
    (0 : Reg) ≤ 0 ∧ (0 : Reg) < 1 ∧ (views 0xF065#16).nn = 0x65#8 := by decide

theorem witness_StoredBytesAreFetchedNext :
    ∃ t, exec (.storeRegs 1) ((((State.reset.setV 0 0x65#8).setV 1 0x2A#8).setI 0x208#16).setPc 0x208#16) = .next t ∧
    ((((State.reset.setV 0 0x65#8).setV 1 0x2A#8).setI 0x208#16).setPc 0x208#16).memWf = true ∧
    decode [0x65#8, 0x2A#8] = .ok (.setByte 5 0x2A#8, []) := ⟨_, rfl, by decide, by decide⟩

theorem witness_DrawFlipsTheCoveredCells :
    (State.reset.setI 0xFF1#16).base + (15 : Fin 16).val - 1 ≤ 0xFFF ∧ (0 : Fin 16).val = 0 ∧
    SpriteCovers State.reset 0 1 5 4 3 ∧ FlagTransition State.reset.cfg.drawFlag State.reset.fb[4][3] := by
  refine ⟨by decide, rfl, ⟨4, 3, by decide⟩, show State.reset.fb[4][3] = false by decide⟩

theorem witness_DrawTwiceRestoresTheScreen :
    ∃ t, exec (.draw 0 1 5) State.reset = .next t ∧ t.V[0] = State.reset.V[0] ∧ t.V[1] = State.reset.V[1] := ⟨_, rfl, by decide, by decide⟩

theorem witness_DrawAtTheEdgeOfMemory :
    0 < (1 : Fin 16).val ∧ 0xFFF < (State.reset.setI 0x1000#16).base + (1 : Fin 16).val - 1 ∧ family 0xD000#16 = 0xD := by decide

/-- Also for AwaitKeySuspends: its word is FF0A. -/
theorem witness_TimerInstructionsMoveTheTimers :
    family 0xF007#16 = 0xF ∧ (views 0xF007#16).nn = 0x07#8 ∧ (views 0xF015#16).nn = 0x15#8 ∧ (views 0xF018#16).nn = 0x18#8 ∧
    (views 0xFF0A#16).nn = 0x0A#8 := by decide

theorem witness_PressAndReleaseUpdateTheKeys :
    ({ State.reset with schedule := [.press 15] } : State).schedule = .press 15 :: [] ∧ State.reset.awaited = none ∧
    ({ State.reset with awaited := some 15, schedule := [.press 0] } : State).awaited = some 15 ∧
    ({ State.reset with schedule := [.release 0] } : State).schedule = .release 0 :: [] ∧ ((1 : Key) ≠ 0) := ⟨rfl, rfl, rfl, rfl, by decide⟩

theorem witness_WaitLastsUntilThePress :
    ({ State.reset with awaited := some 15 } : State).awaited = some 15 ∧ ({ State.reset with awaited := some 15 } : State).schedule = [] := ⟨rfl, rfl⟩

theorem witness_PixelsIsAReadOnlyView :
    ({ State.reset with schedule := [.pixels] } : State).schedule = .pixels :: [] := rfl

theorem witness_LoadCopiesTheImage :
    State.reset.memWf = true ∧ State.reset.started = false ∧ (List.replicate 3584 0x12#8).length ≤ 3584 ∧
    3584 < (List.replicate 3585 0x12#8).length := by
  refine ⟨by decide, rfl, ?_, ?_⟩ <;> rw [List.length_replicate]; decide

theorem witness_LoadHasNoMoveAfterTheFirstSlice :
    ({ State.reset with started := true, schedule := [.load []] } : State).started = true ∧ SliceNext State.reset ∧
    ∃ t, step ({ State.reset with started := true, schedule := [.reset] } : State) = .next t := ⟨rfl, .inl rfl, ⟨_, rfl⟩⟩

theorem witness_ElapseRunsTheWholePeriods :
    ({ State.reset with schedule := [.elapse (1 / 540), .press 3] } : State).schedule = .elapse (1 / 540) :: [.press 3] ∧
    State.reset.cfg.valid = true ∧ (0 : Rat) ≤ 1 / 540 ∧ 0 ≤ State.reset.clockAcc ∧
    ((1 : Nat) : Rat) ≤ (State.reset.clockAcc + 1 / 540) * State.reset.cfg.clockHz ∧
    (State.reset.clockAcc + 1 / 540) * State.reset.cfg.clockHz < ((1 : Nat) : Rat) + 1 ∧
    ∃ u, Sys2Proof.core.run 1 (State.reset.withFetchWord 16 0x1200) = .next u := by
  refine ⟨rfl, by decide, by norm_num, by decide, ?_, ?_, ⟨_, rfl⟩⟩ <;>
    simp [State.reset, State.init, defaultConfig]

/-- The fault clause, at its first slice and past it: 6001 completes and 0123 faults. -/
theorem witness_ElapseRunsTheWholePeriods_fault :
    Sys2Proof.core.run 0 State.reset = .next State.reset ∧ (∃ f, step State.reset = .fault f) ∧
    ∃ t f, Sys2Proof.core.run 1 (State.reset.writeBytes 0x200 [0x60#8, 0x01#8, 0x01#8, 0x23#8]) = .next t ∧ step t = .fault f := ⟨rfl, ⟨_, rfl⟩, _, _, rfl, rfl⟩

theorem witness_StepKeepsTheInvariant :
    State.reset.Inv ∧ ∃ f, step State.reset = .fault f := ⟨⟨by decide, by decide, by decide, by decide⟩, ⟨_, rfl⟩⟩

theorem witness_StepKeepsTheInvariant_next :
    (State.reset.withFetchWord 16 0x1200).Inv ∧ ∃ t, step (State.reset.withFetchWord 16 0x1200) = .next t := ⟨⟨by decide, by decide, by decide, by decide⟩, ⟨_, rfl⟩⟩

theorem witness_StepKeepsTheProgramCounterInRange :
    ({ State.reset with pc := 0x1002#16 } : State).PcInv := ⟨by decide, by decide, by decide⟩

/-- For FlagHasExactlySixSideEffectWriters, EachElementHasOnlyItsWriters, ProgramCounterAfterEachInstruction (instructions that
complete), FaultingInstructionChangesNothing and EachInstructionRaisesOnlyItsFault (one that faults). -/
theorem witness_WholeMachine :
    (∃ t, exec .clear State.reset = .next t) ∧ (∃ t, exec (.draw 0 1 5) State.reset = .next t) ∧ ∃ f, exec .ret State.reset = .fault f := ⟨⟨_, rfl⟩, ⟨_, rfl⟩, ⟨_, rfl⟩⟩

theorem witness_SelfJumpEndsTheRun :
    (State.reset.withFetchWord 16 0x1200).pc = (0x200#12).setWidth 16 ∧ (0x200#12).toNat ≤ 0xFFE ∧
    (State.reset.withFetchWord 16 0x1200).awaited = none ∧ (State.reset.withFetchWord 16 0x1200).schedule = [] ∧
    decode [(State.reset.withFetchWord 16 0x1200).byteAt 0x200, (State.reset.withFetchWord 16 0x1200).byteAt 0x201] =
      .ok (.jump 0x200#12, []) := ⟨by decide, by decide, rfl, rfl, by decide⟩

end Sys2Proof.Tests
end

section
/-! PROOFS. The fields of an instruction word as digits of its number (rule R62): one lemma for each view, so that the claims
about the decoder speak of `toNat` and never unfold `views`. -/

namespace Sys2Proof

/-- A field that starts at bit 0 is the remainder of the word. -/
theorem toNat_extractLsb'_zero (w : Word) (len : Nat) : (w.extractLsb' 0 len).toNat = w.toNat % 2 ^ len := by
  rw [BitVec.extractLsb'_toNat, Nat.shiftRight_zero]

@[simp] theorem views_bits (w : Word) : (views w).bits = w := rfl

theorem views_nnn_toNat (w : Word) : (views w).nnn.toNat = w.toNat % 4096 := toNat_extractLsb'_zero w 12

theorem views_nn_toNat (w : Word) : (views w).nn.toNat = w.toNat % 256 := toNat_extractLsb'_zero w 8

theorem views_n_val (w : Word) : (views w).n.val = w.toNat % 16 :=
  calc (views w).n.val = w.toNat / 2 ^ 0 % 16 := nibbleAt_val w 0
    _ = w.toNat % 16 := by rw [pow_zero, Nat.div_one]

theorem views_y_val (w : Word) : (views w).y.val = w.toNat / 16 % 16 := nibbleAt_val w 4

theorem views_x_val (w : Word) : (views w).x.val = w.toNat / 256 % 16 := nibbleAt_val w 8

/-- The family digit needs no remainder: it is the top digit of a 16-bit word. -/
theorem family_eq_div (w : Word) : family w = w.toNat / 4096 :=
  calc family w = w.toNat / 4096 % 16 := nibbleAt_val w 12
    _ = w.toNat / 4096 := Nat.mod_eq_of_lt (Nat.div_lt_of_lt_mul w.isLt)

/-- Settles O6: each view and the family nibble by its own lemma. -/
theorem viewsAreTheFieldsOfTheWord : Obligations.ViewsAreTheFieldsOfTheWord := fun w =>
  ⟨views_bits w, views_nnn_toNat w, views_n_val w, views_x_val w, views_y_val w, views_nn_toNat w, family_eq_div w⟩

end Sys2Proof
end

section
/-! PROOFS. Screen clear (rule R100): replacing the framebuffer touches the screen only, and clear replaces it by the blank
screen. -/

namespace Sys2Proof.Machine

/-- The frame of a framebuffer write. -/
theorem State.setFb_sameBut (s : State) (f : Framebuffer) : SameBut [.screen] s (s.setFb f) := by
  intro p hp
  cases p
  case screen => exact absurd (List.mem_singleton_self _) hp
  all_goals simp [Unchanged]

theorem exec_clear (s : State) : exec .clear s = .next (s.setFb blankScreen) := rfl

/-- Settles O21: the state clear leaves is the old one with the blank screen, whose cells are off. -/
theorem clearTurnsEveryCellOff : Obligations.ClearTurnsEveryCellOff :=
  ⟨by decide, fun s => ⟨s.setFb blankScreen, exec_clear s, blankScreen_cell, s.setFb_sameBut blankScreen⟩⟩

end Sys2Proof.Machine
end

section
/-! PROOFS. The tick (rule R182): what counting down does to one timer, and that the tick touches nothing but the two timers. -/

namespace Sys2Proof.Machine

@[simp] theorem countDown_zero : countDown 0x00#8 = 0x00#8 := rfl

/-- A timer that runs loses exactly one; being at least 1, it does not wrap. -/
theorem toNat_countDown_add_one {t : Byte} (h : t ≠ 0x00#8) : (countDown t).toNat + 1 = t.toNat :=
  calc (countDown t).toNat + 1 = t.toNat - 1 + 1 := by rw [toNat_countDown]
    _ = t.toNat := Nat.sub_add_cancel (Nat.pos_of_ne_zero fun h0 => h (BitVec.eq_of_toNat_eq h0))

/-- The frame of the tick. -/
theorem State.tick_sameBut (s : State) : SameBut [.delay, .sound] s s.tick := by
  intro p hp
  cases p
  case delay | sound => simp at hp
  all_goals simp [Unchanged]

/-- Settles O14: each timer by what counting down does to it, at 0 and above, and the rest by the tick's frame. -/
theorem tickTakesOneFromEachTimer : Obligations.TickTakesOneFromEachTimer := by
  intro s
  refine ⟨fun hDT => ?_, toNat_countDown_add_one, fun hST => ?_, toNat_countDown_add_one, s.tick_sameBut⟩
  · rw [State.tick_DT, hDT, countDown_zero]
  · rw [State.tick_ST, hST, countDown_zero]

end Sys2Proof.Machine
end

section
/-! PROOFS. The decoder's equations (spec/30_encoding.md rules R67 to R70): for each instruction, the family digit and the
selector of a word that make the dispatcher answer it, in the table's order. Every claim about words is drawn from these. -/

namespace Sys2Proof

variable {w : Word}

theorem decodeWord_family0 (hf : family w = 0x0) : decodeWord w = .ok (decodeFamily0 (views w)) := by
  simp [decodeWord, hf]

theorem decodeWord_family8 (hf : family w = 0x8) : decodeWord w = decodeFamily8 (views w) := by simp [decodeWord, hf]

theorem decodeWord_familyE (hf : family w = 0xE) : decodeWord w = decodeFamilyE (views w) := by simp [decodeWord, hf]

theorem decodeWord_familyF (hf : family w = 0xF) : decodeWord w = decodeFamilyF (views w) := by simp [decodeWord, hf]

theorem decodeWord_clear (hf : family w = 0x0) (hs : (views w).nnn = 0x0E0#12) : decodeWord w = .ok .clear := by
  simp [decodeWord_family0 hf, decodeFamily0, hs]

theorem decodeWord_ret (hf : family w = 0x0) (hs : (views w).nnn = 0x0EE#12) : decodeWord w = .ok .ret := by
  simp [decodeWord_family0 hf, decodeFamily0, hs]

theorem decodeWord_sys (hf : family w = 0x0) (hc : (views w).nnn ≠ 0x0E0#12) (hr : (views w).nnn ≠ 0x0EE#12) :
    decodeWord w = .ok (.sys (views w).nnn) := by
  rw [decodeWord_family0 hf, decodeFamily0, if_neg hc, if_neg hr]

theorem decodeWord_jump (hf : family w = 0x1) : decodeWord w = .ok (.jump (views w).nnn) := by simp [decodeWord, hf]

theorem decodeWord_call (hf : family w = 0x2) : decodeWord w = .ok (.call (views w).nnn) := by simp [decodeWord, hf]

theorem decodeWord_skipEqByte (hf : family w = 0x3) : decodeWord w = .ok (.skipEqByte (views w).x (views w).nn) := by
  simp [decodeWord, hf]

theorem decodeWord_skipNeqByte (hf : family w = 0x4) : decodeWord w = .ok (.skipNeqByte (views w).x (views w).nn) := by
  simp [decodeWord, hf]

theorem decodeWord_skipEq (hf : family w = 0x5) : decodeWord w = .ok (.skipEq (views w).x (views w).y) := by
  simp [decodeWord, hf]

theorem decodeWord_setByte (hf : family w = 0x6) : decodeWord w = .ok (.setByte (views w).x (views w).nn) := by
  simp [decodeWord, hf]

theorem decodeWord_addByte (hf : family w = 0x7) : decodeWord w = .ok (.addByte (views w).x (views w).nn) := by
  simp [decodeWord, hf]

theorem decodeWord_setReg (hf : family w = 0x8) (hs : (views w).n = 0x0) :
    decodeWord w = .ok (.setReg (views w).x (views w).y) := by simp [decodeWord_family8 hf, decodeFamily8, hs]

theorem decodeWord_or (hf : family w = 0x8) (hs : (views w).n = 0x1) :
    decodeWord w = .ok (.or (views w).x (views w).y) := by simp [decodeWord_family8 hf, decodeFamily8, hs]

theorem decodeWord_and (hf : family w = 0x8) (hs : (views w).n = 0x2) :
    decodeWord w = .ok (.and (views w).x (views w).y) := by simp [decodeWord_family8 hf, decodeFamily8, hs]

theorem decodeWord_xor (hf : family w = 0x8) (hs : (views w).n = 0x3) :
    decodeWord w = .ok (.xor (views w).x (views w).y) := by simp [decodeWord_family8 hf, decodeFamily8, hs]

theorem decodeWord_add (hf : family w = 0x8) (hs : (views w).n = 0x4) :
    decodeWord w = .ok (.add (views w).x (views w).y) := by simp [decodeWord_family8 hf, decodeFamily8, hs]

theorem decodeWord_sub (hf : family w = 0x8) (hs : (views w).n = 0x5) :
    decodeWord w = .ok (.sub (views w).x (views w).y) := by simp [decodeWord_family8 hf, decodeFamily8, hs]

theorem decodeWord_shiftRight (hf : family w = 0x8) (hs : (views w).n = 0x6) :
    decodeWord w = .ok (.shiftRight (views w).x) := by simp [decodeWord_family8 hf, decodeFamily8, hs]

theorem decodeWord_subn (hf : family w = 0x8) (hs : (views w).n = 0x7) :
    decodeWord w = .ok (.subn (views w).x (views w).y) := by simp [decodeWord_family8 hf, decodeFamily8, hs]

theorem decodeWord_shiftLeft (hf : family w = 0x8) (hs : (views w).n = 0xE) :
    decodeWord w = .ok (.shiftLeft (views w).x) := by simp [decodeWord_family8 hf, decodeFamily8, hs]

theorem decodeWord_skipNeq (hf : family w = 0x9) : decodeWord w = .ok (.skipNeq (views w).x (views w).y) := by
  simp [decodeWord, hf]

theorem decodeWord_setIndex (hf : family w = 0xA) : decodeWord w = .ok (.setIndex (views w).nnn) := by
  simp [decodeWord, hf]

theorem decodeWord_jumpV0 (hf : family w = 0xB) : decodeWord w = .ok (.jumpV0 (views w).nnn) := by simp [decodeWord, hf]

theorem decodeWord_rand (hf : family w = 0xC) : decodeWord w = .ok (.rand (views w).x (views w).nn) := by
  simp [decodeWord, hf]

theorem decodeWord_draw (hf : family w = 0xD) : decodeWord w = .ok (.draw (views w).x (views w).y (views w).n) := by
  simp [decodeWord, hf]

theorem decodeWord_skipPressed (hf : family w = 0xE) (hs : (views w).nn = 0x9E#8) :
    decodeWord w = .ok (.skipPressed (views w).x) := by simp [decodeWord_familyE hf, decodeFamilyE, hs]

theorem decodeWord_skipNotPressed (hf : family w = 0xE) (hs : (views w).nn = 0xA1#8) :
    decodeWord w = .ok (.skipNotPressed (views w).x) := by simp [decodeWord_familyE hf, decodeFamilyE, hs]

theorem decodeWord_getDelay (hf : family w = 0xF) (hs : (views w).nn = 0x07#8) :
    decodeWord w = .ok (.getDelay (views w).x) := by simp [decodeWord_familyF hf, decodeFamilyF, hs]

theorem decodeWord_awaitKey (hf : family w = 0xF) (hs : (views w).nn = 0x0A#8) :
    decodeWord w = .ok (.awaitKey (views w).x) := by simp [decodeWord_familyF hf, decodeFamilyF, hs]

theorem decodeWord_setDelay (hf : family w = 0xF) (hs : (views w).nn = 0x15#8) :
    decodeWord w = .ok (.setDelay (views w).x) := by simp [decodeWord_familyF hf, decodeFamilyF, hs]

theorem decodeWord_setSound (hf : family w = 0xF) (hs : (views w).nn = 0x18#8) :
    decodeWord w = .ok (.setSound (views w).x) := by simp [decodeWord_familyF hf, decodeFamilyF, hs]

theorem decodeWord_addIndex (hf : family w = 0xF) (hs : (views w).nn = 0x1E#8) :
    decodeWord w = .ok (.addIndex (views w).x) := by simp [decodeWord_familyF hf, decodeFamilyF, hs]

theorem decodeWord_setChar (hf : family w = 0xF) (hs : (views w).nn = 0x29#8) :
    decodeWord w = .ok (.setChar (views w).x) := by simp [decodeWord_familyF hf, decodeFamilyF, hs]

theorem decodeWord_storeBcd (hf : family w = 0xF) (hs : (views w).nn = 0x33#8) :
    decodeWord w = .ok (.storeBcd (views w).x) := by simp [decodeWord_familyF hf, decodeFamilyF, hs]

theorem decodeWord_storeRegs (hf : family w = 0xF) (hs : (views w).nn = 0x55#8) :
    decodeWord w = .ok (.storeRegs (views w).x) := by simp [decodeWord_familyF hf, decodeFamilyF, hs]

theorem decodeWord_loadRegs (hf : family w = 0xF) (hs : (views w).nn = 0x65#8) :
    decodeWord w = .ok (.loadRegs (views w).x) := by simp [decodeWord_familyF hf, decodeFamilyF, hs]

end Sys2Proof
end

section
/-! PROOFS. Decoding what the encoder wrote (rules R45, R61, R70): each format gives its fields back through the views, and the
decoder's equation of the instruction does the rest. -/

namespace Sys2Proof

section Formats

variable {f : Nat} (hf : f < 16) (nnn : Addr) (x y : Reg) (nn : Byte) (n : Fin 16)
include hf

@[simp] theorem family_formNNN : family (formNNN f nnn) = f := by
  rw [family_eq_div, toNat_formNNN hf]; omega

@[simp] theorem views_nnn_formNNN : (views (formNNN f nnn)).nnn = nnn := by
  apply BitVec.eq_of_toNat_eq; rw [views_nnn_toNat, toNat_formNNN hf]; omega

@[simp] theorem family_formXNN : family (formXNN f x nn) = f := by
  rw [family_eq_div, toNat_formXNN hf]; omega

@[simp] theorem views_x_formXNN : (views (formXNN f x nn)).x = x := by
  apply Fin.ext; rw [views_x_val, toNat_formXNN hf]; omega

@[simp] theorem views_nn_formXNN : (views (formXNN f x nn)).nn = nn := by
  apply BitVec.eq_of_toNat_eq; rw [views_nn_toNat, toNat_formXNN hf]; omega

@[simp] theorem family_formXYN : family (formXYN f x y n) = f := by
  rw [family_eq_div, toNat_formXYN hf]; omega

@[simp] theorem views_x_formXYN : (views (formXYN f x y n)).x = x := by
  apply Fin.ext; rw [views_x_val, toNat_formXYN hf]; omega

@[simp] theorem views_y_formXYN : (views (formXYN f x y n)).y = y := by
  apply Fin.ext; rw [views_y_val, toNat_formXYN hf]; omega

@[simp] theorem views_n_formXYN : (views (formXYN f x y n)).n = n := by
  apply Fin.ext; rw [views_n_val, toNat_formXYN hf]; omega

end Formats

/-- The dispatcher reads the canonical word of a well-formed instruction as that instruction: the decoder's equation of the
instruction, at the fields the format gives back. -/
theorem decodeWord_encode (i : Instr) (hi : i.wellFormed = true) : decodeWord (encode i) = .ok i := by
  cases i with
  | clear => decide
  | ret => decide
  | sys nnn =>
    have hs : nnn ≠ 0x0E0#12 ∧ nnn ≠ 0x0EE#12 := by simpa [Instr.wellFormed, sysPayloadOk] using hi
    simpa [encode] using decodeWord_sys (w := formNNN 0x0 nnn) (by simp) (by simpa using hs.1) (by simpa using hs.2)
  | jump => simp [encode, decodeWord_jump]
  | call => simp [encode, decodeWord_call]
  | skipEqByte => simp [encode, decodeWord_skipEqByte]
  | skipNeqByte => simp [encode, decodeWord_skipNeqByte]
  | skipEq => simp [encode, decodeWord_skipEq]
  | setByte => simp [encode, decodeWord_setByte]
  | addByte => simp [encode, decodeWord_addByte]
  | setReg => simp [encode, decodeWord_setReg]
  | or => simp [encode, decodeWord_or]
  | and => simp [encode, decodeWord_and]
  | xor => simp [encode, decodeWord_xor]
  | add => simp [encode, decodeWord_add]
  | sub => simp [encode, decodeWord_sub]
  | shiftRight => simp [encode, decodeWord_shiftRight]
  | subn => simp [encode, decodeWord_subn]
  | shiftLeft => simp [encode, decodeWord_shiftLeft]
  | skipNeq => simp [encode, decodeWord_skipNeq]
  | setIndex => simp [encode, decodeWord_setIndex]
  | jumpV0 => simp [encode, decodeWord_jumpV0]
  | rand => simp [encode, decodeWord_rand]
  | draw => simp [encode, decodeWord_draw]
  | skipPressed => simp [encode, decodeWord_skipPressed]
  | skipNotPressed => simp [encode, decodeWord_skipNotPressed]
  | getDelay => simp [encode, decodeWord_getDelay]
  | awaitKey => simp [encode, decodeWord_awaitKey]
  | setDelay => simp [encode, decodeWord_setDelay]
  | setSound => simp [encode, decodeWord_setSound]
  | addIndex => simp [encode, decodeWord_addIndex]
  | setChar => simp [encode, decodeWord_setChar]
  | storeBcd => simp [encode, decodeWord_storeBcd]
  | storeRegs => simp [encode, decodeWord_storeRegs]
  | loadRegs => simp [encode, decodeWord_loadRegs]

/-- Settles O9: the two stored bytes put together are the canonical word, and the dispatcher reads it as the instruction. -/
theorem decodeOfEncodeIsTheInstruction : Obligations.DecodeOfEncodeIsTheInstruction := by
  intro i rest hi
  calc decode (encodeBytes i ++ rest)
      = (decodeWord (wordOfBytes (hiByte (encode i)) (loByte (encode i)))).map (fun j => (j, rest)) := rfl
    _ = .ok (i, rest) := by rw [wordOfBytes_hi_lo, decodeWord_encode i hi]; rfl

/-- Settles O5: each word evaluates to its instruction. -/
theorem specWordsDecode : Obligations.SpecWordsDecode := by
  unfold Obligations.SpecWordsDecode
  decide

end Sys2Proof
end

section
/-! PROOFS. Which words are defined (rules R69, R70, R72, R73): the second levels of families 0x8, 0xE and 0xF answer an
instruction or Illegal, by the selector; and the canonical word of a decoded instruction is the word in every bit read. -/

namespace Sys2Proof

open Sys2Proof.Machine

theorem family_lt (w : Word) : family w < 16 := (nibbleAt w 12).isLt

/-- The families, by what their words hold beside the digit: a selector, an address, a register and a byte, or two registers
(rules R61, R70). -/
theorem family_cases (w : Word) :
    family w = 0x0 ∨ family w = 0x8 ∨ family w = 0xE ∨ family w = 0xF ∨
    (family w = 0x1 ∨ family w = 0x2 ∨ family w = 0xA ∨ family w = 0xB) ∨
    (family w = 0x3 ∨ family w = 0x4 ∨ family w = 0x6 ∨ family w = 0x7 ∨ family w = 0xC) ∨
    (family w = 0x5 ∨ family w = 0x9) ∨ family w = 0xD := by
  have hlt := family_lt w
  omega

/-! ### Defined or Illegal -/

/-- Second level of family 0x8, by the selector digit (rule R69). -/
theorem decodeFamily8_cases (v : Views) :
    (v.n.val ∉ [0x8, 0x9, 0xA, 0xB, 0xC, 0xD, 0xF] ∧ ∃ i, decodeFamily8 v = .ok i ∧ ∀ nnn, i ≠ .sys nnn) ∨
    (v.n.val ∈ [0x8, 0x9, 0xA, 0xB, 0xC, 0xD, 0xF] ∧ decodeFamily8 v = .error (.illegal v.bits)) := by
  have hlt := v.n.isLt
  unfold decodeFamily8
  split
  case h_10 =>
    right
    refine ⟨?_, rfl⟩
    simp only [imp_false, List.mem_cons, List.not_mem_nil, or_false] at *
    omega
  all_goals left; exact ⟨by simp [*], _, rfl, by simp⟩

/-- Second level of family 0xE, by the selector byte (rule R69). -/
theorem decodeFamilyE_cases (v : Views) :
    (v.nn.toNat ∈ [0x9E, 0xA1] ∧ ∃ i, decodeFamilyE v = .ok i ∧ ∀ nnn, i ≠ .sys nnn) ∨
    (v.nn.toNat ∉ [0x9E, 0xA1] ∧ decodeFamilyE v = .error (.illegal v.bits)) := by
  simp only [decodeFamilyE, ← BitVec.toNat_inj]
  split_ifs
  case neg => right; exact ⟨by simp_all, rfl⟩
  all_goals left; exact ⟨by simp [*], _, rfl, by simp⟩

/-- Second level of family 0xF, by the selector byte (rule R69). -/
theorem decodeFamilyF_cases (v : Views) :
    (v.nn.toNat ∈ [0x07, 0x0A, 0x15, 0x18, 0x1E, 0x29, 0x33, 0x55, 0x65] ∧
      ∃ i, decodeFamilyF v = .ok i ∧ ∀ nnn, i ≠ .sys nnn) ∨
    (v.nn.toNat ∉ [0x07, 0x0A, 0x15, 0x18, 0x1E, 0x29, 0x33, 0x55, 0x65] ∧
      decodeFamilyF v = .error (.illegal v.bits)) := by
  simp only [decodeFamilyF, ← BitVec.toNat_inj]
  split_ifs
  case neg => right; exact ⟨by simp_all, rfl⟩
  all_goals left; exact ⟨by simp [*], _, rfl, by simp⟩

theorem decodeWord_of_illegalWord {w : Word} (h : IllegalWord w) : decodeWord w = .error (.illegal w) := by
  rcases h with ⟨hf, hs⟩ | ⟨hf, hs⟩ | ⟨hf, hs⟩
  · rw [decodeWord_family8 ((family_eq_div w).trans hf)]
    exact ((decodeFamily8_cases (views w)).resolve_left fun h => h.1 (by rwa [views_n_val])).2
  · rw [decodeWord_familyE ((family_eq_div w).trans hf)]
    exact ((decodeFamilyE_cases (views w)).resolve_left fun h => hs (by rw [← views_nn_toNat]; exact h.1)).2
  · rw [decodeWord_familyF ((family_eq_div w).trans hf)]
    exact ((decodeFamilyF_cases (views w)).resolve_left fun h => hs (by rw [← views_nn_toNat]; exact h.1)).2

/-- The payload of a word of family 0x0 is the word. -/
theorem views_nnn_of_family0 {w : Word} (hf : family w = 0x0) : (views w).nnn.toNat = w.toNat := by
  rw [family_eq_div] at hf; rw [views_nnn_toNat]; omega

theorem decodeWord_of_unsupportedWord {w : Word} (h : UnsupportedWord w) :
    decodeWord w = .ok (.sys (views w).nnn) ∧ (views w).nnn.toNat = w.toNat := by
  obtain ⟨hlt, hc, hr⟩ := h
  have hf : family w = 0x0 := by rw [family_eq_div]; omega
  have hn := views_nnn_of_family0 hf
  exact ⟨decodeWord_sys hf (fun e => hc (by simp [← hn, e])) (fun e => hr (by simp [← hn, e])), hn⟩

/-- Every word the rule does not list decodes to an instruction other than sys: family by family. -/
theorem decodeWord_of_definedWord {w : Word} (hi : ¬ IllegalWord w) (hu : ¬ UnsupportedWord w) :
    ∃ i, decodeWord w = .ok i ∧ ∀ nnn, i ≠ .sys nnn := by
  have hdiv := family_eq_div w
  rcases family_cases w with hf | hf | hf | hf | hf | hf | hf | hf
  · have hn := views_nnn_of_family0 hf
    by_cases hc : (views w).nnn = 0x0E0#12
    · exact ⟨_, decodeWord_clear hf hc, by simp⟩
    · by_cases hr : (views w).nnn = 0x0EE#12
      · exact ⟨_, decodeWord_ret hf hr, by simp⟩
      · refine absurd ⟨by omega, fun e => hc ?_, fun e => hr ?_⟩ hu
        all_goals exact BitVec.eq_of_toNat_eq (hn.trans e)
  · rw [decodeWord_family8 hf]
    exact ((decodeFamily8_cases (views w)).resolve_right fun h =>
      hi (.inl ⟨hdiv.symm.trans hf, by rw [← views_n_val]; exact h.1⟩)).2
  · rw [decodeWord_familyE hf]
    exact ((decodeFamilyE_cases (views w)).resolve_right fun h =>
      hi (.inr (.inl ⟨hdiv.symm.trans hf, by rw [← views_nn_toNat]; exact h.1⟩))).2
  · rw [decodeWord_familyF hf]
    exact ((decodeFamilyF_cases (views w)).resolve_right fun h =>
      hi (.inr (.inr ⟨hdiv.symm.trans hf, by rw [← views_nn_toNat]; exact h.1⟩))).2
  · rcases hf with hf | hf | hf | hf
    all_goals simp [decodeWord, hf]
  · rcases hf with hf | hf | hf | hf | hf
    all_goals simp [decodeWord, hf]
  · rcases hf with hf | hf
    all_goals simp [decodeWord, hf]
  · exact ⟨_, decodeWord_draw hf, by simp⟩

/-- Settles O7: the three kinds of words, each by its lemma. -/
theorem undefinedWordsAreExactlyThoseListed : Obligations.UndefinedWordsAreExactlyThoseListed := fun w =>
  ⟨decodeWord_of_illegalWord, fun hu => ⟨(views w).nnn, decodeWord_of_unsupportedWord hu⟩, decodeWord_of_definedWord⟩

/-! ### Encoding a decoded instruction again -/

/-- The fields of a word of family `f`, put in the family's format, are the word. -/
theorem formNNN_views {w : Word} {f : Nat} {nnn : Addr} (hf : family w = f) (hn : (views w).nnn = nnn) :
    formNNN f nnn = w := by
  have hlt := family_lt w
  apply BitVec.eq_of_toNat_eq
  rw [toNat_formNNN (by omega), ← hn, views_nnn_toNat, ← hf, family_eq_div]; omega

theorem formXNN_views {w : Word} {f : Nat} {nn : Byte} (hf : family w = f) (hn : (views w).nn = nn) :
    formXNN f (views w).x nn = w := by
  have hlt := family_lt w
  apply BitVec.eq_of_toNat_eq
  rw [toNat_formXNN (by omega), ← hn, views_nn_toNat, views_x_val, ← hf, family_eq_div]; omega

theorem formXYN_views {w : Word} {f : Nat} {n : Fin 16} (hf : family w = f) (hn : (views w).n.val = n.val) :
    formXYN f (views w).x (views w).y n = w := by
  have hlt := family_lt w
  apply BitVec.eq_of_toNat_eq
  rw [toNat_formXYN (by omega), ← hn, views_n_val, views_y_val, views_x_val, ← hf, family_eq_div]; omega

/-- The mask of 5xy- and 9xy- does not see the low digit (rule R72). -/
theorem formXYN_and_FFF0 {f : Nat} (hf : f < 16) (x y : Reg) (n m : Fin 16) :
    formXYN f x y n &&& 0xFFF0#16 = formXYN f x y m &&& 0xFFF0#16 := by
  have hdrop (w : Word) : w &&& 0xFFF0#16 = (w >>> 4) <<< 4 := by
    apply BitVec.eq_of_getLsbD_eq; intro i hi
    interval_cases i <;> simp
  rw [hdrop, hdrop]; congr 1
  apply BitVec.eq_of_toNat_eq
  simp only [BitVec.toNat_ushiftRight, toNat_formXYN hf, Nat.shiftRight_eq_div_pow]; omega

/-- The mask of the shifts does not see the `y` digit (rule R73). -/
theorem formXYN_and_FF0F {f : Nat} (hf : f < 16) (x y z : Reg) (n : Fin 16) :
    formXYN f x y n &&& 0xFF0F#16 = formXYN f x z n &&& 0xFF0F#16 := by
  have hsplit (w : Word) : w &&& 0xFF0F#16 = (w >>> 8) <<< 8 ||| (w <<< 12) >>> 12 := by
    apply BitVec.eq_of_getLsbD_eq; intro i hi
    interval_cases i <;> simp
  rw [hsplit, hsplit]; congr 2
  all_goals
    apply BitVec.eq_of_toNat_eq
    simp only [BitVec.toNat_ushiftRight, BitVec.toNat_shiftLeft, toNat_formXYN hf, Nat.shiftRight_eq_div_pow,
      Nat.shiftLeft_eq]
    omega

/-- The instruction is well formed and its canonical word is `w` in every bit the decoder reads. -/
def Reencodes (w : Word) (i : Instr) : Prop := i.wellFormed = true ∧ (encode i &&& i.readBits) = (w &&& i.readBits)

theorem reencodes_of_encode_eq {w : Word} {i : Instr} (hi : i.wellFormed = true) (h : encode i = w) : Reencodes w i :=
  ⟨hi, by rw [h]⟩

/-- Family 0x8: the selector digit is the canonical word's, and so is `y` but for the shifts. -/
theorem decodeFamily8_reencodes {w : Word} (hf : family w = 0x8) {i : Instr} (h : decodeFamily8 (views w) = .ok i) :
    Reencodes w i := by
  unfold decodeFamily8 at h
  split at h
  case h_10 => cases h
  case h_7 hn =>
    cases h
    exact ⟨rfl, (formXYN_and_FF0F (by omega) _ 0 _ 0x6).trans (by rw [formXYN_views hf hn]; rfl)⟩
  case h_9 hn =>
    cases h
    exact ⟨rfl, (formXYN_and_FF0F (by omega) _ 0 _ 0xE).trans (by rw [formXYN_views hf hn]; rfl)⟩
  all_goals
    next hn =>
    cases h
    exact reencodes_of_encode_eq rfl (formXYN_views hf hn)

/-- Family 0xE: the selector byte is the canonical word's. -/
theorem decodeFamilyE_reencodes {w : Word} (hf : family w = 0xE) {i : Instr} (h : decodeFamilyE (views w) = .ok i) :
    Reencodes w i := by
  unfold decodeFamilyE at h
  split_ifs at h with hs hs
  all_goals
    cases h
    exact reencodes_of_encode_eq rfl (formXNN_views hf hs)

/-- Family 0xF: the selector byte is the canonical word's. -/
theorem decodeFamilyF_reencodes {w : Word} (hf : family w = 0xF) {i : Instr} (h : decodeFamilyF (views w) = .ok i) :
    Reencodes w i := by
  unfold decodeFamilyF at h
  split_ifs at h with hs hs hs hs hs hs hs hs hs
  all_goals
    cases h
    exact reencodes_of_encode_eq rfl (formXNN_views hf hs)

/-- Family 0x0: the payload is the canonical word's, and sys has what clear and return leave. -/
theorem decodeFamily0_reencodes {w : Word} (hf : family w = 0x0) : Reencodes w (decodeFamily0 (views w)) := by
  unfold decodeFamily0
  split_ifs with hc hr
  · exact reencodes_of_encode_eq rfl (formNNN_views hf hc)
  · exact reencodes_of_encode_eq rfl (formNNN_views hf hr)
  · exact reencodes_of_encode_eq (by simp [Instr.wellFormed, sysPayloadOk, hc, hr]) (formNNN_views hf rfl)

/-- Whatever a word decodes to encodes to it again: family by family, by the fields of the family's format. -/
theorem reencodes_of_decodeWord {w : Word} {i : Instr} (h : decodeWord w = .ok i) : Reencodes w i := by
  rcases family_cases w with hf | hf | hf | hf | hf | hf | hf | hf
  · rw [decodeWord_family0 hf] at h; cases h; exact decodeFamily0_reencodes hf
  · exact decodeFamily8_reencodes hf (decodeWord_family8 hf ▸ h)
  · exact decodeFamilyE_reencodes hf (decodeWord_familyE hf ▸ h)
  · exact decodeFamilyF_reencodes hf (decodeWord_familyF hf ▸ h)
  · rcases hf with hf | hf | hf | hf
    all_goals
      simp only [decodeWord, hf] at h
      cases h
      exact reencodes_of_encode_eq rfl (formNNN_views hf rfl)
  · rcases hf with hf | hf | hf | hf | hf
    all_goals
      simp only [decodeWord, hf] at h
      cases h
      exact reencodes_of_encode_eq rfl (formXNN_views hf rfl)
  · rcases hf with hf | hf
    all_goals
      simp only [decodeWord, hf] at h
      cases h
      exact ⟨rfl, (formXYN_and_FFF0 (by omega) _ _ 0 (views w).n).trans (by rw [formXYN_views hf rfl]; rfl)⟩
  · rw [decodeWord_draw hf] at h; cases h; exact reencodes_of_encode_eq rfl (formXYN_views hf rfl)

/-- Settles O10: a decoded instruction encodes to its word again. -/
theorem decodedInstructionReencodes : Obligations.DecodedInstructionReencodes := fun _ _ h => reencodes_of_decodeWord h

/-! ### The opcode map -/

/-- A row covers a word when the masked word is the pattern. -/
theorem covers_iff (p m w : Word) : OpcodeRow.covers ⟨p, m⟩ w = true ↔ w &&& m = p := by simp [OpcodeRow.covers]

/-- A row that looks at the family digit only. -/
theorem family_of_covers {p w : Word} (h : OpcodeRow.covers ⟨p, 0xF000#16⟩ w = true) : family w = p.toNat / 4096 := by
  rw [covers_iff, ← BitVec.toNat_inj, toNat_and_F000] at h
  rw [family_eq_div]; omega

/-- A row that looks at the family digit and the low digit. -/
theorem family_and_n_of_covers {p w : Word} (h : OpcodeRow.covers ⟨p, 0xF00F#16⟩ w = true) :
    family w = p.toNat / 4096 ∧ (views w).n = Fin.ofNat 16 p.toNat := by
  rw [covers_iff, ← BitVec.toNat_inj, toNat_and_F00F] at h
  refine ⟨by rw [family_eq_div]; omega, Fin.ext ?_⟩
  rw [views_n_val, Fin.val_ofNat]; omega

/-- A row that looks at the family digit and the low byte. -/
theorem family_and_nn_of_covers {p w : Word} (h : OpcodeRow.covers ⟨p, 0xF0FF#16⟩ w = true) :
    family w = p.toNat / 4096 ∧ (views w).nn = BitVec.ofNat 8 p.toNat := by
  rw [covers_iff, ← BitVec.toNat_inj, toNat_and_F0FF] at h
  refine ⟨by rw [family_eq_div]; omega, BitVec.eq_of_toNat_eq ?_⟩
  rw [views_nn_toNat, BitVec.toNat_ofNat]; omega

/-- A row that looks at the whole word. -/
theorem eq_of_covers {p w : Word} (h : OpcodeRow.covers ⟨p, 0xFFFF#16⟩ w = true) : w = p := by
  rw [covers_iff] at h
  rw [← h]; exact (BitVec.and_allOnes (x := w)).symm

/-- The rows of family 0x0 come first, sys last of the three. -/
theorem row_decodeFamily0_le (v : Views) : (decodeFamily0 v).row ≤ 2 := by
  unfold decodeFamily0; split_ifs <;> simp [Instr.row]

/-- A word that a row covers decodes to that row's instruction, or (sys's row) to one of an earlier row: row by row. -/
theorem decodes_of_covers {w : Word} {j : Nat} (hj : j < opcodeTable.length) (h : (opcodeTable[j]).covers w = true) :
    ∃ i, decodeWord w = .ok i ∧ i.row ≤ j := by
  have hj' : j < 35 := hj
  interval_cases j
  · exact ⟨.clear, by rw [eq_of_covers h]; rfl, le_refl 0⟩
  · exact ⟨.ret, by rw [eq_of_covers h]; rfl, le_refl 1⟩
  · exact ⟨_, decodeWord_family0 (family_of_covers h), row_decodeFamily0_le (views w)⟩
  · exact ⟨_, decodeWord_jump (family_of_covers h), le_rfl⟩
  · exact ⟨_, decodeWord_call (family_of_covers h), le_rfl⟩
  · exact ⟨_, decodeWord_skipEqByte (family_of_covers h), le_rfl⟩
  · exact ⟨_, decodeWord_skipNeqByte (family_of_covers h), le_rfl⟩
  · exact ⟨_, decodeWord_skipEq (family_of_covers h), le_rfl⟩
  · exact ⟨_, decodeWord_setByte (family_of_covers h), le_rfl⟩
  · exact ⟨_, decodeWord_addByte (family_of_covers h), le_rfl⟩
  · exact ⟨_, decodeWord_setReg (family_and_n_of_covers h).1 (family_and_n_of_covers h).2, le_rfl⟩
  · exact ⟨_, decodeWord_or (family_and_n_of_covers h).1 (family_and_n_of_covers h).2, le_rfl⟩
  · exact ⟨_, decodeWord_and (family_and_n_of_covers h).1 (family_and_n_of_covers h).2, le_rfl⟩
  · exact ⟨_, decodeWord_xor (family_and_n_of_covers h).1 (family_and_n_of_covers h).2, le_rfl⟩
  · exact ⟨_, decodeWord_add (family_and_n_of_covers h).1 (family_and_n_of_covers h).2, le_rfl⟩
  · exact ⟨_, decodeWord_sub (family_and_n_of_covers h).1 (family_and_n_of_covers h).2, le_rfl⟩
  · exact ⟨_, decodeWord_shiftRight (family_and_n_of_covers h).1 (family_and_n_of_covers h).2, le_rfl⟩
  · exact ⟨_, decodeWord_subn (family_and_n_of_covers h).1 (family_and_n_of_covers h).2, le_rfl⟩
  · exact ⟨_, decodeWord_shiftLeft (family_and_n_of_covers h).1 (family_and_n_of_covers h).2, le_rfl⟩
  · exact ⟨_, decodeWord_skipNeq (family_of_covers h), le_rfl⟩
  · exact ⟨_, decodeWord_setIndex (family_of_covers h), le_rfl⟩
  · exact ⟨_, decodeWord_jumpV0 (family_of_covers h), le_rfl⟩
  · exact ⟨_, decodeWord_rand (family_of_covers h), le_rfl⟩
  · exact ⟨_, decodeWord_draw (family_of_covers h), le_rfl⟩
  · exact ⟨_, decodeWord_skipPressed (family_and_nn_of_covers h).1 (family_and_nn_of_covers h).2, le_rfl⟩
  · exact ⟨_, decodeWord_skipNotPressed (family_and_nn_of_covers h).1 (family_and_nn_of_covers h).2, le_rfl⟩
  · exact ⟨_, decodeWord_getDelay (family_and_nn_of_covers h).1 (family_and_nn_of_covers h).2, le_rfl⟩
  · exact ⟨_, decodeWord_awaitKey (family_and_nn_of_covers h).1 (family_and_nn_of_covers h).2, le_rfl⟩
  · exact ⟨_, decodeWord_setDelay (family_and_nn_of_covers h).1 (family_and_nn_of_covers h).2, le_rfl⟩
  · exact ⟨_, decodeWord_setSound (family_and_nn_of_covers h).1 (family_and_nn_of_covers h).2, le_rfl⟩
  · exact ⟨_, decodeWord_addIndex (family_and_nn_of_covers h).1 (family_and_nn_of_covers h).2, le_rfl⟩
  · exact ⟨_, decodeWord_setChar (family_and_nn_of_covers h).1 (family_and_nn_of_covers h).2, le_rfl⟩
  · exact ⟨_, decodeWord_storeBcd (family_and_nn_of_covers h).1 (family_and_nn_of_covers h).2, le_rfl⟩
  · exact ⟨_, decodeWord_storeRegs (family_and_nn_of_covers h).1 (family_and_nn_of_covers h).2, le_rfl⟩
  · exact ⟨_, decodeWord_loadRegs (family_and_nn_of_covers h).1 (family_and_nn_of_covers h).2, le_rfl⟩

/-- The instruction's own row covers its canonical word: the laws of the table, instruction by instruction. -/
theorem row_covers_encode (i : Instr) (hi : i.wellFormed = true) :
    (opcodeTable[i.row]?).map (fun r => r.covers (encode i)) = some true := by
  cases i with
  | clear => exact Laws.MatchesRow.clear hi
  | ret => exact Laws.MatchesRow.ret hi
  | sys => exact Laws.MatchesRow.sys _ hi
  | jump => exact Laws.MatchesRow.jump _ hi
  | call => exact Laws.MatchesRow.call _ hi
  | skipEqByte => exact Laws.MatchesRow.skipEqByte _ _ hi
  | skipNeqByte => exact Laws.MatchesRow.skipNeqByte _ _ hi
  | skipEq => exact Laws.MatchesRow.skipEq _ _ hi
  | setByte => exact Laws.MatchesRow.setByte _ _ hi
  | addByte => exact Laws.MatchesRow.addByte _ _ hi
  | setReg => exact Laws.MatchesRow.setReg _ _ hi
  | or => exact Laws.MatchesRow.or _ _ hi
  | and => exact Laws.MatchesRow.and _ _ hi
  | xor => exact Laws.MatchesRow.xor _ _ hi
  | add => exact Laws.MatchesRow.add _ _ hi
  | sub => exact Laws.MatchesRow.sub _ _ hi
  | shiftRight => exact Laws.MatchesRow.shiftRight _ hi
  | subn => exact Laws.MatchesRow.subn _ _ hi
  | shiftLeft => exact Laws.MatchesRow.shiftLeft _ hi
  | skipNeq => exact Laws.MatchesRow.skipNeq _ _ hi
  | setIndex => exact Laws.MatchesRow.setIndex _ hi
  | jumpV0 => exact Laws.MatchesRow.jumpV0 _ hi
  | rand => exact Laws.MatchesRow.rand _ _ hi
  | draw => exact Laws.MatchesRow.draw _ _ _ hi
  | skipPressed => exact Laws.MatchesRow.skipPressed _ hi
  | skipNotPressed => exact Laws.MatchesRow.skipNotPressed _ hi
  | getDelay => exact Laws.MatchesRow.getDelay _ hi
  | awaitKey => exact Laws.MatchesRow.awaitKey _ hi
  | setDelay => exact Laws.MatchesRow.setDelay _ hi
  | setSound => exact Laws.MatchesRow.setSound _ hi
  | addIndex => exact Laws.MatchesRow.addIndex _ hi
  | setChar => exact Laws.MatchesRow.setChar _ hi
  | storeBcd => exact Laws.MatchesRow.storeBcd _ hi
  | storeRegs => exact Laws.MatchesRow.storeRegs _ hi
  | loadRegs => exact Laws.MatchesRow.loadRegs _ hi

/-- A row looks only at bits that the decoder reads. -/
theorem row_mask_and_readBits (i : Instr) :
    (opcodeTable[i.row]?).map (fun r => i.readBits &&& r.mask) = (opcodeTable[i.row]?).map (fun r => r.mask) := by
  cases i <;> simp [Instr.row, Instr.readBits, opcodeTable, opcodeRowsLow, opcodeRowsAlu, opcodeRowsHigh]

theorem row_lt (i : Instr) : i.row < opcodeTable.length := by
  cases i <;> simp [Instr.row, show opcodeTable.length = 35 from rfl]

/-- The instruction's own row covers every word that decodes to it, since the word agrees with the canonical one in the bits the
row looks at. -/
theorem row_covers_of_decodeWord {w : Word} {i : Instr} (h : decodeWord w = .ok i) :
    (opcodeTable[i.row]'(row_lt i)).covers w = true := by
  obtain ⟨hi, hbits⟩ := reencodes_of_decodeWord h
  have hrow := row_covers_encode i hi
  have hmask := row_mask_and_readBits i
  simp only [List.getElem?_eq_getElem (row_lt i), Option.map_some, Option.some.injEq] at hrow hmask
  generalize opcodeTable[i.row]'(row_lt i) = r at hrow hmask
  rw [covers_iff] at hrow ⊢
  calc w &&& r.mask = w &&& i.readBits &&& r.mask := by rw [BitVec.and_assoc, hmask]
    _ = encode i &&& r.mask := by rw [← hbits, BitVec.and_assoc, hmask]
    _ = r.pattern := hrow

/-- Settles O8: the own row covers the word, an earlier row or any row of an undecodable word would make it decode otherwise. -/
theorem dispatcherAgreesWithOpcodeTable : Obligations.DispatcherAgreesWithOpcodeTable := by
  intro w
  constructor
  · intro i hi
    rw [List.findIdx?_eq_some_iff_getElem]
    refine ⟨row_lt i, row_covers_of_decodeWord hi, fun j hlt hcov => ?_⟩
    obtain ⟨i', hi', hle⟩ := decodes_of_covers _ hcov
    obtain rfl : i = i' := Except.ok.inj (hi.symm.trans hi')
    omega
  · intro e he
    rw [List.findIdx?_eq_none_iff]
    intro r hr
    obtain ⟨j, hj, rfl⟩ := List.getElem_of_mem hr
    rw [Bool.eq_false_iff]
    intro hcov
    obtain ⟨i, hi, -⟩ := decodes_of_covers hj hcov
    rw [he] at hi; cases hi

end Sys2Proof
end

section
/-! PROOFS. Frames: what is unchanged composes, and each update of the state touches the parts it names and no other. -/

namespace Sys2Proof.Machine

variable {s t u : State}

theorem Unchanged.trans {p : Part} (h₁ : Unchanged s t p) (h₂ : Unchanged t u p) : Unchanged s u p := by
  cases p
  case mem | regs | stack | keys => exact fun a => (h₂ a).trans (h₁ a)
  case screen => exact fun y x => (h₂ y x).trans (h₁ y x)
  all_goals exact Eq.trans h₂ h₁

theorem SameBut.trans {ps : List Part} (h₁ : SameBut ps s t) (h₂ : SameBut ps t u) : SameBut ps s u :=
  fun p hp => (h₁ p hp).trans (h₂ p hp)

theorem SameBut.mono {ps qs : List Part} (h : SameBut ps s t) (hsub : ps ⊆ qs) : SameBut qs s t :=
  fun p hp => h p fun hm => hp (hsub hm)

theorem SameBut.refl (ps : List Part) (s : State) : SameBut ps s s := by
  intro p _; cases p <;> simp [Unchanged]

variable (s)

theorem State.setV_sameBut (r : Reg) (v : Byte) : SameBut [.regs] s (s.setV r v) := by
  intro p hp; cases p <;> simp_all [Unchanged]

theorem State.resultThenFlag_sameBut (x : Reg) (v f : Byte) : SameBut [.regs] s (s.resultThenFlag x v f) :=
  (s.setV_sameBut x v).trans (State.setV_sameBut _ Reg.VF f)

theorem State.flagThenResult_sameBut (x : Reg) (v f : Byte) : SameBut [.regs] s (s.flagThenResult x v f) :=
  (s.setV_sameBut Reg.VF f).trans (State.setV_sameBut _ x v)

theorem State.setI_sameBut (v : Word) : SameBut [.index] s (s.setI v) := by
  intro p hp; cases p <;> simp_all [Unchanged]

theorem State.setPc_sameBut (v : Word) : SameBut [.pc] s (s.setPc v) := by
  intro p hp; cases p <;> simp_all [Unchanged]

theorem State.advancePc_sameBut : SameBut [.pc] s s.advancePc := s.setPc_sameBut _

theorem State.setDT_sameBut (v : Byte) : SameBut [.delay] s (s.setDT v) := by
  intro p hp; cases p <;> simp_all [Unchanged]

theorem State.setST_sameBut (v : Byte) : SameBut [.sound] s (s.setST v) := by
  intro p hp; cases p <;> simp_all [Unchanged]

theorem State.setAwaited_sameBut (a : Option Reg) : SameBut [.awaited] s (s.setAwaited a) := by
  intro p hp; cases p <;> simp_all [Unchanged]

theorem State.setKey_sameBut (k : Key) (b : Bool) : SameBut [.keys] s (s.setKey k b) := by
  intro p hp; cases p <;> simp_all [Unchanged]

theorem State.countDraw_sameBut : SameBut [.draws] s s.countDraw := by
  intro p hp; cases p <;> simp_all [Unchanged]

theorem State.push_sameBut (v : Word) (h : s.sp.val < 16) : SameBut [.stack, .sp] s (s.push v h) := by
  intro p hp; cases p <;> simp_all [Unchanged]

theorem State.popToPc_sameBut (h : 0 < s.sp.val) : SameBut [.sp, .pc] s (s.popToPc h) := by
  intro p hp; cases p <;> simp_all [Unchanged]

theorem State.tickCheck_sameBut : SameBut [.tick, .delay, .sound] s s.tickCheck := by
  intro p hp; cases p <;> simp_all [Unchanged]

theorem State.beginSlice_sameBut : SameBut [.tick, .delay, .sound, .started] s s.beginSlice := by
  intro p hp; cases p <;> simp_all [Unchanged]

theorem State.takeEvent_sameBut : SameBut [.schedule] s s.takeEvent := by
  intro p hp; cases p <;> simp_all [Unchanged]

/-- A run of stores changes the memory field only. -/
theorem State.writeBytes_eq_withMem (a : Nat) (bs : List Byte) : ∃ m, s.writeBytes a bs = { s with mem := m } :=
  ⟨_, writeBytes_eq s a bs⟩

theorem State.writeBytes_sameBut (a : Nat) (bs : List Byte) : SameBut [.mem] s (s.writeBytes a bs) := by
  obtain ⟨m, hm⟩ := s.writeBytes_eq_withMem a bs
  rw [hm]
  intro p hp; cases p <;> simp_all [Unchanged]

/-- Loading registers changes the register file only. -/
theorem State.loadRegs_eq_withV (ks : List Reg) : ∃ v, s.loadRegs ks = { s with V := v } := ⟨_, loadRegs_eq s ks⟩

theorem State.loadRegs_sameBut (ks : List Reg) : SameBut [.regs] s (s.loadRegs ks) := by
  obtain ⟨v, hv⟩ := s.loadRegs_eq_withV ks
  rw [hv]
  intro p hp; cases p <;> simp_all [Unchanged, State.byteAt]

/-! ### Registers -/

theorem State.setV_V_self (r : Reg) (v : Byte) : (s.setV r v).V[r] = v := by simp

theorem State.setV_V_other {q r : Reg} (v : Byte) (h : q ≠ r) : (s.setV r v).V[q] = s.V[q] := by
  simp [Vector.getElem_set_ne, Fin.val_ne_of_ne h.symm]

theorem State.setV_regsSameBut (r : Reg) (v : Byte) : RegsSameBut [r] s (s.setV r v) :=
  fun _ hq => s.setV_V_other v (by simpa using hq)

theorem State.setVF_V_VF (v : Byte) : (s.setVF v).V[15] = v := s.setV_V_self Reg.VF v

theorem State.resultThenFlag_V_flag (x : Reg) (v f : Byte) : (s.resultThenFlag x v f).V[15] = f :=
  State.setV_V_self _ Reg.VF f

theorem State.resultThenFlag_V_result {x : Reg} (hx : x ≠ 15) (v f : Byte) : (s.resultThenFlag x v f).V[x] = v :=
  (State.setV_V_other _ f hx).trans (s.setV_V_self x v)

theorem State.resultThenFlag_regsSameBut (x : Reg) (v f : Byte) : RegsSameBut [x, 15] s (s.resultThenFlag x v f) := by
  intro q hq
  obtain ⟨hx, hf⟩ : q ≠ x ∧ q ≠ Reg.VF := by simpa using hq
  exact (State.setV_V_other _ f hf).trans (s.setV_V_other v hx)

theorem State.flagThenResult_V_result (x : Reg) (v f : Byte) : (s.flagThenResult x v f).V[x] = v :=
  State.setV_V_self _ x v

theorem State.flagThenResult_V_flag {x : Reg} (hx : x ≠ 15) (v f : Byte) : (s.flagThenResult x v f).V[15] = f :=
  (State.setV_V_other _ v hx.symm).trans (s.setV_V_self Reg.VF f)

theorem State.flagThenResult_regsSameBut (x : Reg) (v f : Byte) : RegsSameBut [x, 15] s (s.flagThenResult x v f) := by
  intro q hq
  obtain ⟨hx, hf⟩ : q ≠ x ∧ q ≠ Reg.VF := by simpa using hq
  exact (State.setV_V_other _ v hx).trans (s.setV_V_other f hf)

end Sys2Proof.Machine
end

section
/-! PROOFS. What an instruction answers, over all 35 of them: the state a completing instruction leaves, for those whose meaning
is a case distinction, and the one fault each may raise (spec/60_exceptions.md rule R173). -/

namespace Sys2Proof.Machine

variable {s t : State}

/-! ### Completing -/

theorem eq_of_next (h : (.next s : Result) = .next t) : t = s := (Host.Outcome.next.inj h).symm

theorem eq_of_guardRange_next {k : Access} {first : Word} {n : Nat} {u : State} (h : guardRange k first n s u = .next t) :
    (n = 0 ∨ first.toNat + n - 1 ≤ 0xFFF) ∧ t = u := by
  rcases guardRange_cases k first n s u with ⟨hr, hg⟩ | ⟨-, -, hg⟩
  · exact ⟨hr, eq_of_next (hg.symm.trans h)⟩
  · rw [hg] at h; cases h

theorem eq_of_skipIf_next {c : Bool} (h : skipIf c s = .next t) : t = s ∨ t = s.advancePc := by
  rcases skipIf_cases c s with ⟨-, hk⟩ | ⟨-, hk⟩
  · exact .inr (eq_of_next (hk.symm.trans h))
  · exact .inl (eq_of_next (hk.symm.trans h))

theorem eq_of_skipOnKey_next {x : Reg} {wanted : Bool} (h : skipOnKey x wanted s = .next t) : t = s ∨ t = s.advancePc := by
  rcases skipOnKey_cases x wanted s with ⟨k, -, hk⟩ | ⟨-, hk⟩
  · exact eq_of_skipIf_next (hk.symm.trans h)
  · rw [hk] at h; cases h

theorem exec_ret_of_pos (h : 0 < s.sp.val) : exec .ret s = .next (s.popToPc h) := dif_pos h

theorem exec_ret_of_zero (h : s.sp.val = 0) : exec .ret s = .fault (.stackUnderflow s) := dif_neg (by omega)

theorem eq_of_exec_ret_next (h : exec .ret s = .next t) : ∃ hs, t = s.popToPc hs := by
  by_cases hs : 0 < s.sp.val
  · exact ⟨hs, eq_of_next ((exec_ret_of_pos hs).symm.trans h)⟩
  · rw [exec_ret_of_zero (by omega)] at h; cases h

theorem exec_call_of_lt (nnn : Addr) (h : s.sp.val < 16) :
    exec (.call nnn) s = .next ((s.push s.pc h).setPc (addrWord nnn)) := dif_pos h

theorem exec_call_of_full (nnn : Addr) (h : ¬ s.sp.val < 16) : exec (.call nnn) s = .fault (.stackOverflow s) := dif_neg h

theorem eq_of_exec_call_next {nnn : Addr} (h : exec (.call nnn) s = .next t) :
    ∃ hs, t = (s.push s.pc hs).setPc (addrWord nnn) := by
  by_cases hs : s.sp.val < 16
  · exact ⟨hs, eq_of_next ((exec_call_of_lt nnn hs).symm.trans h)⟩
  · rw [exec_call_of_full nnn hs] at h; cases h

/-! ### Faulting -/

/-- The fault an instruction may raise at `s`, by the table of rule R173. -/
def ownFault (i : Instr) (s : State) : Option Fault :=
  match i with
  | .ret => some (.stackUnderflow s)
  | .call _ => some (.stackOverflow s)
  | .sys nnn => some (.unsupported (encode (.sys nnn)) s)
  | .skipPressed x | .skipNotPressed x => some (.keyIndexFault s.V[x] s)
  | .storeBcd _ | .storeRegs _ => some (.addressFault .write s.I s)
  | .loadRegs _ | .draw _ _ _ => some (.addressFault .read s.I s)
  | _ => none

/-- An instruction completes or raises its own fault. -/
theorem exec_next_or_ownFault (i : Instr) (s : State) :
    (∃ t, exec i s = .next t) ∨ ∃ f, ownFault i s = some f ∧ exec i s = .fault f := by
  cases i
  case ret =>
    by_cases hs : 0 < s.sp.val
    · exact .inl ⟨_, exec_ret_of_pos hs⟩
    · exact .inr ⟨_, rfl, exec_ret_of_zero (by omega)⟩
  case call nnn =>
    by_cases hs : s.sp.val < 16
    · exact .inl ⟨_, exec_call_of_lt nnn hs⟩
    · exact .inr ⟨_, rfl, exec_call_of_full nnn hs⟩
  case sys => exact .inr ⟨_, rfl, rfl⟩
  case skipPressed x | skipNotPressed x =>
    rcases skipOnKey_cases x _ s with ⟨k, -, hk⟩ | ⟨-, hk⟩
    · exact .inl ⟨_, hk⟩
    · exact .inr ⟨_, rfl, hk⟩
  case storeBcd | storeRegs | loadRegs | draw =>
    rcases guardRange_cases _ s.I _ s _ with ⟨-, hg⟩ | ⟨-, -, hg⟩
    · exact .inl ⟨_, hg⟩
    · exact .inr ⟨_, rfl, hg⟩
  all_goals exact .inl ⟨_, rfl⟩

theorem ownFault_of_exec_fault {i : Instr} {f : Fault} (h : exec i s = .fault f) : ownFault i s = some f := by
  rcases exec_next_or_ownFault i s with ⟨t, ht⟩ | ⟨g, hg, hfault⟩
  · rw [ht] at h; cases h
  · rw [hfault] at h; cases h; exact hg

theorem exec_ne_refused (i : Instr) (s : State) (r : Refusal) : exec i s ≠ .refused r := by
  intro h
  rcases exec_next_or_ownFault i s with ⟨t, ht⟩ | ⟨g, -, hg⟩
  · rw [ht] at h; cases h
  · rw [hg] at h; cases h

/-- Every fault of an instruction carries the state its body started from. -/
theorem after_of_ownFault {i : Instr} {f : Fault} (h : ownFault i s = some f) : f.after = s := by
  cases i <;> cases h <;> rfl

theorem exec_fault_after {i : Instr} {f : Fault} (h : exec i s = .fault f) : f.after = s :=
  after_of_ownFault (ownFault_of_exec_fault h)

/-- Settles O57: the fault raised is the instruction's own, which the table gives row by row. -/
theorem eachInstructionRaisesOnlyItsFault : Obligations.EachInstructionRaisesOnlyItsFault := by
  intro i s f h
  have hown := ownFault_of_exec_fault h
  cases i <;> simp_all [ownFault]

/-- Settles O56: the own fault carries the state unchanged, and an instruction that does not raise it completes. -/
theorem faultingInstructionChangesNothing : Obligations.FaultingInstructionChangesNothing :=
  fun i s => ⟨fun _ h => exec_fault_after h, exec_ne_refused i s⟩

/-! ### The writers of each element -/

/-- Widening with zeros keeps the number (rules R5, R64). -/
@[simp] theorem toNat_addrWord (nnn : Addr) : (addrWord nnn).toNat = nnn.toNat :=
  BitVec.toNat_setWidth_of_le (by omega)

@[simp] theorem toNat_jumpV0Target (nnn : Addr) (v : Byte) :
    (jumpV0Target nnn v).toNat = (nnn.toNat + v.toNat) % 4096 := by
  rw [jumpV0Target, BitVec.toNat_ofNat]; omega

/-- Settles O54: the state each instruction leaves, by the shape of its meaning, differs in the named elements only. -/
theorem eachElementHasOnlyItsWriters : Obligations.EachElementHasOnlyItsWriters := by
  intro i s t h
  cases i
  case ret => obtain ⟨hs, rfl⟩ := eq_of_exec_ret_next h; simp
  case call => obtain ⟨hs, rfl⟩ := eq_of_exec_call_next h; simp
  case sys => cases h
  case skipEqByte | skipNeqByte | skipEq | skipNeq => obtain rfl | rfl := eq_of_skipIf_next h <;> simp
  case skipPressed | skipNotPressed => obtain rfl | rfl := eq_of_skipOnKey_next h <;> simp
  case storeBcd | storeRegs =>
    obtain ⟨-, rfl⟩ := eq_of_guardRange_next h
    obtain ⟨m, hm⟩ := s.writeBytes_eq_withMem s.base _
    rw [hm]; simp
  case loadRegs x =>
    obtain ⟨-, rfl⟩ := eq_of_guardRange_next h
    obtain ⟨v, hv⟩ := s.loadRegs_eq_withV (regsUpTo x)
    rw [hv]; simp
  case draw => obtain ⟨-, rfl⟩ := eq_of_guardRange_next h; simp
  all_goals obtain rfl := eq_of_next h; simp

/-- Settles O55: the advanced `pc` stays but where a meaning writes it, and there it is the value written. -/
theorem programCounterAfterEachInstruction : Obligations.ProgramCounterAfterEachInstruction := by
  intro i s t h
  cases i
  case ret =>
    obtain ⟨hs, rfl⟩ := eq_of_exec_ret_next h
    exact ⟨⟨s.sp.val - 1, by omega⟩, by simp only; omega, rfl⟩
  case call => obtain ⟨hs, rfl⟩ := eq_of_exec_call_next h; exact toNat_addrWord _
  case sys => cases h
  case skipEqByte | skipNeqByte | skipEq | skipNeq => obtain rfl | rfl := eq_of_skipIf_next h <;> simp
  case skipPressed | skipNotPressed => obtain rfl | rfl := eq_of_skipOnKey_next h <;> simp
  case storeBcd | storeRegs =>
    obtain ⟨-, rfl⟩ := eq_of_guardRange_next h
    exact State.writeBytes_sameBut _ _ _ .pc (by simp)
  case loadRegs =>
    obtain ⟨-, rfl⟩ := eq_of_guardRange_next h
    exact State.loadRegs_sameBut _ _ .pc (by simp)
  case draw => obtain ⟨-, rfl⟩ := eq_of_guardRange_next h; simp
  case jump => obtain rfl := eq_of_next h; exact toNat_addrWord _
  case jumpV0 => obtain rfl := eq_of_next h; exact toNat_jumpV0Target _ _
  all_goals obtain rfl := eq_of_next h; simp

/-- Settles O53: the six flag writers leave a flag byte, and a destination register other than 15 is not `VF`. -/
theorem flagHasExactlySixSideEffectWriters : Obligations.FlagHasExactlySixSideEffectWriters := by
  intro i s t h
  cases i
  case ret => obtain ⟨hs, rfl⟩ := eq_of_exec_ret_next h; simp
  case call => obtain ⟨hs, rfl⟩ := eq_of_exec_call_next h; simp
  case sys => cases h
  case skipEqByte | skipNeqByte | skipEq | skipNeq => obtain rfl | rfl := eq_of_skipIf_next h <;> simp
  case skipPressed | skipNotPressed => obtain rfl | rfl := eq_of_skipOnKey_next h <;> simp
  case storeBcd | storeRegs =>
    obtain ⟨-, rfl⟩ := eq_of_guardRange_next h
    exact State.writeBytes_sameBut _ _ _ .regs (by simp) 15
  case loadRegs x =>
    obtain ⟨-, rfl⟩ := eq_of_guardRange_next h
    intro hx
    refine (loadRegs_V s (regsUpTo x) 15).trans (if_neg ?_)
    rw [mem_regsUpTo]
    exact fun hle => hx (le_antisymm (Fin.le_last x) hle)
  case draw =>
    obtain ⟨-, rfl⟩ := eq_of_guardRange_next h
    rw [State.setVF_V_VF]; exact flagByte_cases _
  case add | sub | subn =>
    obtain rfl := eq_of_next h
    rw [State.resultThenFlag_V_flag]; exact flagByte_cases _
  case shiftRight | shiftLeft =>
    obtain rfl := eq_of_next h
    intro hx
    rw [State.flagThenResult_V_flag _ hx]; exact flagByte_cases _
  case setByte | addByte | setReg | or | and | xor | rand | getDelay =>
    obtain rfl := eq_of_next h
    exact fun hx => State.setV_V_other _ _ (Ne.symm hx)
  all_goals obtain rfl := eq_of_next h; simp

end Sys2Proof.Machine
end

section
/-! PROOFS. What a slice and a step leave, completing or faulting (rules R171, R172, R180): one lemma for a slice, one for the
events of the interface, from which the invariants of the state are drawn. -/

namespace Sys2Proof.Machine

variable {s t : State}

/-- Whatever the outcome leaves, as the next state or with a fault, has the property. -/
def Leaves (P : State → Prop) (r : Result) : Prop := (∀ t, r = .next t → P t) ∧ (∀ f, r = .fault f → P f.after)

theorem leaves_next {P : State → Prop} (h : P s) : Leaves P (.next s) := ⟨by rintro _ ⟨⟩; exact h, by rintro _ ⟨⟩⟩

theorem leaves_fault {P : State → Prop} {f : Fault} (h : P f.after) : Leaves P (.fault f) :=
  ⟨by rintro _ ⟨⟩, by rintro _ ⟨⟩; exact h⟩

theorem leaves_refused {P : State → Prop} (r : Refusal) : Leaves P (.refused r) := ⟨by rintro _ ⟨⟩, by rintro _ ⟨⟩⟩

/-- An instruction leaves a state with `P` when every completing run of it does and the state it starts from has `P`. -/
theorem exec_leaves {P : State → Prop} {i : Instr} (hs : P s) (hnext : ∀ t, exec i s = .next t → P t) :
    Leaves P (exec i s) :=
  ⟨hnext, fun _ hf => by rw [exec_fault_after hf]; exact hs⟩

/-- What a slice leaves: the state its tick check leaves, with `pc` as it was or advanced, or what an instruction makes of the
latter. -/
theorem slice_leaves {P : State → Prop} (hbegin : P s.beginSlice) (hadv : s.pc.toNat ≤ 0xFFE → P s.beginSlice.advancePc)
    (hexec : ∀ i t, s.pc.toNat ≤ 0xFFE → exec i s.beginSlice.advancePc = .next t → P t) : Leaves P s.slice := by
  rcases slice_cases s with ⟨r, -, hs⟩ | ⟨-, hs⟩
  · rw [hs]; exact leaves_next hbegin
  · rw [hs]
    rcases cycle_cases s.beginSlice with ⟨-, hc⟩ | ⟨hpc, e, -, hc⟩ | ⟨hpc, i, -, hc⟩
    · rw [hc]; exact leaves_fault hbegin
    · rw [hc]; exact leaves_fault (hadv (by simpa using hpc))
    · rw [hc]
      have hpc' : s.pc.toNat ≤ 0xFFE := by simpa using hpc
      exact exec_leaves (hadv hpc') fun t => hexec i t hpc'

/-- The state a faulting slice leaves is its tick check's, with `pc` as it was or advanced (rules R171, R172). -/
theorem slice_fault_after {f : Fault} (h : s.slice = .fault f) :
    f.after = s.beginSlice ∨ f.after = s.beginSlice.advancePc := by
  rcases slice_cases s with ⟨r, -, hs⟩ | ⟨-, hs⟩
  · rw [hs] at h; cases h
  · rw [hs] at h
    rcases cycle_cases s.beginSlice with ⟨-, hc⟩ | ⟨-, e, -, hc⟩ | ⟨-, i, -, hc⟩
    · rw [hc] at h; cases h; exact .inl rfl
    · rw [hc] at h; cases h; exact .inr rfl
    · rw [hc] at h; exact .inr (exec_fault_after h)

theorem slice_ne_refused (s : State) (r : Refusal) : s.slice ≠ .refused r := by
  intro h
  rcases slice_cases s with ⟨q, -, hs⟩ | ⟨-, hs⟩
  · rw [hs] at h; cases h
  · rw [hs] at h
    rcases cycle_cases s.beginSlice with ⟨-, hc⟩ | ⟨-, e, -, hc⟩ | ⟨-, i, -, hc⟩
    · rw [hc] at h; cases h
    · rw [hc] at h; cases h
    · rw [hc] at h; exact exec_ne_refused i _ r h

/-- What no instruction that completes writes (from the writers of each element). -/
theorem exec_keeps_clocks {i : Instr} (h : exec i s = .next t) :
    t.tickAcc = s.tickAcc ∧ t.clockAcc = s.clockAcc ∧ t.cfg = s.cfg ∧ t.started = s.started ∧ t.schedule = s.schedule := by
  obtain ⟨-, -, -, -, -, -, -, -, -, -, hrest⟩ := eachElementHasOnlyItsWriters i s t h
  exact hrest

/-- Settles O17: the divider is the tick check's in the state the cycle starts from, and no instruction writes it. -/
theorem tickCheckRunsInEverySlice : Obligations.TickCheckRunsInEverySlice := by
  intro s hs
  rw [step_of_sliceNext hs]
  have htick : Leaves (fun t => t.tickAcc = s.tickCheck.tickAcc) s.takeEvent.slice :=
    slice_leaves (by simp) (fun _ => by simp) fun i t _ h => by rw [(exec_keeps_clocks h).1]; simp
  refine ⟨htick.1, fun f hf => ⟨htick.2 f hf, ?_⟩, slice_ne_refused _⟩
  rcases slice_fault_after hf with h | h <;> simp [h]

/-! ### Events -/

/-- A press writes keys, registers and the wait only. -/
theorem State.press_eq (s : State) (k : Key) : ∃ ks v a, s.press k = { s with keys := ks, V := v, awaited := a } := by
  unfold State.press
  split
  · exact ⟨_, _, _, rfl⟩
  · exact ⟨_, s.V, s.awaited, rfl⟩

theorem load_of_started {b : List Byte} (h : s.started = true) : s.load b = .refused .loadAfterStart := by
  simp [State.load, h]

theorem load_of_fits {b : List Byte} (h : s.started = false) (hb : b.length ≤ 3584) : s.load b = .next (s.loadImage b) := by
  simp [State.load, h, progMax, Nat.not_lt.2 hb]

theorem load_of_oversized {b : List Byte} (h : s.started = false) (hb : 3584 < b.length) :
    s.load b = .fault (.oversizedProgram (s.loadImage b)) := by
  simp [State.load, h, progMax, hb]

/-- A load leaves the machine with the image in memory, or is refused. -/
theorem load_leaves {P : State → Prop} {b : List Byte} (h : P (s.loadImage b)) : Leaves P (s.load b) := by
  cases hs : s.started
  · by_cases hb : b.length ≤ 3584
    · rw [load_of_fits hs hb]; exact leaves_next h
    · rw [load_of_oversized hs (by omega)]; exact leaves_fault h
  · rw [load_of_started hs]; exact leaves_refused _

/-- A property that a slice and every event of the interface keep is kept by delivering any event, the step wrapper with all its
slices included (rules R8, R208). -/
theorem deliver_leaves {P : State → Prop} (hslice : ∀ s, P s → Leaves P s.slice) (hpress : ∀ s k, P s → P (s.press k))
    (hrelease : ∀ s k, P s → P (s.release k)) (hload : ∀ s b, P s → P (s.loadImage b)) (hreset : ∀ s, P s → P s.resetBlock)
    (htime : ∀ s e, P s → 0 ≤ e → P { s with clockAcc := s.clockAcc + e })
    (hperiod : ∀ s, P s → 1 / (s.cfg.clockHz : Rat) ≤ s.clockAcc → P s.consumePeriod) (e : Event) (hs : P s) :
    Leaves P (deliver e s) := by
  cases e with
  | slice => exact hslice s hs
  | press k => exact leaves_next (hpress s k hs)
  | release k => exact leaves_next (hrelease s k hs)
  | pixels => exact leaves_next hs
  | load b => exact load_leaves (hload s b hs)
  | reset => exact leaves_next (hreset s hs)
  | elapse e =>
    simp only [deliver, State.elapse]
    split_ifs with he
    · exact leaves_refused _
    · exact drain_induction (fun s t hs hp h => (hslice _ (hperiod s hs hp)).1 t h)
        (fun s f hs hp h => (hslice _ (hperiod s hs hp)).2 f h) _ _ (htime s e hs (not_lt.1 he))

end Sys2Proof.Machine
end

section
/-! PROOFS. The data invariant (rules R3, R10, R24, R208): what each operation does to it, and that every step keeps it. -/

namespace Sys2Proof.Machine

variable {s t : State}

theorem memWf_congr (hcfg : t.cfg = s.cfg) (hmem : t.mem = s.mem) : t.memWf = s.memWf := by
  rw [State.memWf, State.memWf, hcfg, hmem]

/-- The invariant looks at the parameters, the divider, the memory and the accumulated time only. -/
theorem State.Inv.congr (h : s.Inv) (hcfg : t.cfg = s.cfg) (htick : t.tickAcc = s.tickAcc) (hmem : t.memWf = s.memWf)
    (hclock : t.clockAcc = s.clockAcc) : t.Inv :=
  ⟨hcfg ▸ h.cfg_valid, by rw [htick, hcfg]; exact h.tick_le, hmem.trans h.mem_wf, hclock ▸ h.clock_nonneg⟩

theorem inv_init {c : Config} (hc : c.valid = true) : (State.init c).Inv := ⟨hc, Nat.zero_le _, memWf_init c, le_refl _⟩

theorem State.Inv.beginSlice (h : s.Inv) : s.beginSlice.Inv where
  cfg_valid := by simpa using h.cfg_valid
  tick_le := by simpa using tickCheck_tickAcc_le h.tick_le (clockHz_of_valid h.cfg_valid)
  mem_wf := (memWf_congr s.beginSlice_cfg s.beginSlice_mem).trans h.mem_wf
  clock_nonneg := by simpa using h.clock_nonneg

/-- Storing bytes inside memory keeps the canonical form, whatever `I` is, when the bounds check lets the access through. -/
theorem memWf_writeBytes_base {bs : List Byte} {n : Nat} (h : s.memWf = true) (hn : bs.length = n)
    (hr : n = 0 ∨ s.I.toNat + n - 1 ≤ 0xFFF) : (s.writeBytes s.base bs).memWf = true := by
  refine memWf_writeBytes h ?_
  rcases Nat.eq_zero_or_pos n with h0 | hpos
  · exact .inl (List.length_eq_zero_iff.1 (hn.trans h0))
  · right; rw [State.base, hn]; omega

/-- Only the two stores write memory, and they check their range first (rule R47). -/
theorem exec_keeps_memWf {i : Instr} (h : exec i s = .next t) (hs : s.memWf = true) : t.memWf = true := by
  obtain ⟨-, -, -, -, -, -, -, -, hmem, -, -, -, hcfg, -, -⟩ := eachElementHasOnlyItsWriters i s t h
  cases i
  case storeBcd =>
    obtain ⟨hr, rfl⟩ := eq_of_guardRange_next h
    exact memWf_writeBytes_base hs rfl hr
  case storeRegs =>
    obtain ⟨hr, rfl⟩ := eq_of_guardRange_next h
    exact memWf_writeBytes_base hs (by simp) hr
  all_goals rw [memWf_congr hcfg (hmem (by simp) (by simp))]; exact hs

theorem State.Inv.of_exec {i : Instr} (hs : s.Inv) (h : exec i s = .next t) : t.Inv := by
  obtain ⟨htick, hclock, hcfg, -, -⟩ := exec_keeps_clocks h
  exact hs.congr hcfg htick ((exec_keeps_memWf h hs.mem_wf).trans hs.mem_wf.symm) hclock

theorem State.Inv.advancePc (h : s.Inv) : s.advancePc.Inv := h.congr rfl rfl rfl rfl

theorem State.Inv.slice (h : s.Inv) : Leaves State.Inv s.slice :=
  slice_leaves h.beginSlice (fun _ => h.beginSlice.advancePc) fun _ _ _ ht => h.beginSlice.advancePc.of_exec ht

theorem State.Inv.press (h : s.Inv) (k : Key) : (s.press k).Inv := by
  obtain ⟨ks, v, a, hp⟩ := s.press_eq k
  rw [hp]; exact h.congr rfl rfl rfl rfl

/-- The image's 3584 bytes from 0x200 on end with the last byte of memory. -/
theorem State.Inv.loadImage (h : s.Inv) (b : List Byte) : (s.loadImage b).Inv := by
  have hwf : (s.loadImage b).memWf = true := by
    refine memWf_writeBytes h.mem_wf (.inr ?_)
    simp only [progBase, progMax, List.length_take]; omega
  obtain ⟨m, hm⟩ := s.writeBytes_eq_withMem progBase (b.take progMax)
  rw [State.loadImage, hm] at hwf ⊢
  exact h.congr rfl rfl (hwf.trans h.mem_wf.symm) rfl

/-- A whole period is taken only when it is there. -/
theorem State.Inv.consumePeriod (h : s.Inv) (hp : 1 / (s.cfg.clockHz : Rat) ≤ s.clockAcc) : s.consumePeriod.Inv :=
  ⟨h.cfg_valid, h.tick_le, h.mem_wf, sub_nonneg.2 hp⟩

/-- Settles O51: the slice and every event of the interface keep the invariant. -/
theorem stepKeepsTheInvariant : Obligations.StepKeepsTheInvariant := fun s hs =>
  deliver_leaves (fun _ h => h.slice) (fun _ k h => h.press k) (fun _ _ h => h.congr rfl rfl rfl rfl)
    (fun _ b h => h.loadImage b) (fun _ h => (inv_init h.cfg_valid).congr rfl rfl rfl rfl)
    (fun _ _ h he => ⟨h.cfg_valid, h.tick_le, h.mem_wf, add_nonneg h.clock_nonneg he⟩)
    (fun _ h hp => h.consumePeriod hp) (nextEvent s) (hs.congr (t := s.takeEvent) rfl rfl rfl rfl)

end Sys2Proof.Machine
end

section
/-! PROOFS. The range of the program counter (rule R17): from a `pc` at most 0xFFE the cycle advances to at most 0x1000, which a
call may push and a taken skip may pass by 2; every other target is a 12-bit address or a slot. -/

namespace Sys2Proof.Machine

variable {s t : State}

/-- The range looks at the parameters, `pc` and the slots only. -/
theorem State.PcInv.congr (h : s.PcInv) (hcfg : t.cfg = s.cfg) (hpc : t.pc = s.pc) (hstack : t.stack = s.stack) : t.PcInv :=
  ⟨hcfg ▸ h.reset_le, hpc ▸ h.pc_le, hstack ▸ h.slots_le⟩

theorem pcInv_init {c : Config} (hc : c.resetPc.toNat ≤ 0x1002) : (State.init c).PcInv :=
  ⟨hc, hc, fun k => by simp [State.init]⟩

theorem State.PcInv.beginSlice (h : s.PcInv) : s.beginSlice.PcInv :=
  h.congr s.beginSlice_cfg s.beginSlice_pc s.beginSlice_stack

/-- The advance of the cycle does not wrap. -/
theorem toNat_advancePc (h : s.pc.toNat ≤ 0xFFE) : s.advancePc.pc.toNat = s.pc.toNat + 2 := by
  rw [State.advancePc_pc, BitVec.toNat_add]; simp; omega

theorem State.PcInv.advancePc (h : s.PcInv) (hpc : s.pc.toNat ≤ 0xFFE) : s.advancePc.PcInv :=
  ⟨h.reset_le, by rw [toNat_advancePc hpc]; omega, h.slots_le⟩

/-- Where an instruction may leave `pc` when it starts from at most 0x1000. -/
theorem exec_pc_le {i : Instr} (h : exec i s = .next t) (hpc : s.pc.toNat ≤ 0x1000)
    (hslots : ∀ k : Fin 16, s.stack[k].toNat ≤ 0x1000) : t.pc.toNat ≤ 0x1002 := by
  have hafter := programCounterAfterEachInstruction i s t h
  cases i
  case jump nnn | call nnn => have := nnn.isLt; simp only at hafter; omega
  case jumpV0 => simp only at hafter; omega
  case ret =>
    obtain ⟨k, -, hk⟩ := hafter
    rw [hk]; exact (hslots k).trans (by omega)
  case skipEqByte | skipNeqByte | skipEq | skipNeq | skipPressed | skipNotPressed =>
    rcases hafter with hk | hk
    · rw [hk]; omega
    · rw [hk, BitVec.toNat_add]; simp; omega
  all_goals simp only at hafter; rw [hafter]; omega

/-- Only call writes a slot, and what it pushes is the advanced `pc`. -/
theorem exec_slots_le {i : Instr} (h : exec i s = .next t) (hpc : s.pc.toNat ≤ 0x1000)
    (hslots : ∀ k : Fin 16, s.stack[k].toNat ≤ 0x1000) (k : Fin 16) : t.stack[k].toNat ≤ 0x1000 := by
  obtain ⟨-, hstack, -⟩ := eachElementHasOnlyItsWriters i s t h
  cases i
  case call =>
    obtain ⟨hs, rfl⟩ := eq_of_exec_call_next h
    simp only [State.setPc_stack, State.push_stack, Fin.getElem_fin, Vector.getElem_set]
    split_ifs
    · exact hpc
    · exact hslots k
  all_goals rw [hstack (by simp)]; exact hslots k

theorem State.PcInv.of_exec {i : Instr} (hs : s.PcInv) (hpc : s.pc.toNat ≤ 0x1000) (h : exec i s = .next t) : t.PcInv where
  reset_le := by
    obtain ⟨-, -, hcfg, -, -⟩ := exec_keeps_clocks h
    rw [hcfg]; exact hs.reset_le
  pc_le := exec_pc_le h hpc hs.slots_le
  slots_le := exec_slots_le h hpc hs.slots_le

theorem State.PcInv.slice (h : s.PcInv) : Leaves State.PcInv s.slice := by
  have hadv (hpc : s.pc.toNat ≤ 0xFFE) : s.beginSlice.advancePc.PcInv := h.beginSlice.advancePc (by simpa using hpc)
  refine slice_leaves h.beginSlice hadv fun i t hpc ht => (hadv hpc).of_exec ?_ ht
  rw [toNat_advancePc (by simpa using hpc), State.beginSlice_pc]; omega

theorem State.PcInv.press (h : s.PcInv) (k : Key) : (s.press k).PcInv := by
  obtain ⟨ks, v, a, hp⟩ := s.press_eq k
  rw [hp]; exact h.congr rfl rfl rfl

theorem State.PcInv.loadImage (h : s.PcInv) (b : List Byte) : (s.loadImage b).PcInv := by
  obtain ⟨m, hm⟩ := s.writeBytes_eq_withMem progBase (b.take progMax)
  rw [State.loadImage, hm]
  exact h.congr rfl rfl rfl

/-- Settles O52: the slice and every event of the interface keep the range. -/
theorem stepKeepsTheProgramCounterInRange : Obligations.StepKeepsTheProgramCounterInRange := fun s hs =>
  deliver_leaves (fun _ h => h.slice) (fun _ k h => h.press k) (fun _ _ h => h.congr rfl rfl rfl)
    (fun _ b h => h.loadImage b) (fun _ h => (pcInv_init h.reset_le).congr rfl rfl rfl)
    (fun _ _ h _ => h.congr rfl rfl rfl) (fun _ h _ => h.congr rfl rfl rfl) (nextEvent s)
    (hs.congr (t := s.takeEvent) rfl rfl rfl)

/-- Settles O2: the state after reset is canonical and all zero but for `pc`, which is the parameter. -/
theorem resetMeetsTheInvariants : Obligations.ResetMeetsTheInvariants :=
  ⟨fun _ => inv_init, fun _ => pcInv_init, inv_init (by decide), pcInv_init (by decide)⟩

end Sys2Proof.Machine
end

section
/-! PROOFS. One slice from its start to the instruction it runs (rules R45, R47, R65, R66, R180): what a step that delivers a
slice is, by what stands at `pc`, and how the state its body starts from differs from the one before. -/

namespace Sys2Proof.Machine

variable {s : State}

theorem step_of_ready (hn : SliceNext s) (ha : s.awaited = none) : step s = s.takeEvent.beginSlice.cycle :=
  (step_of_sliceNext hn).trans (slice_of_ready ha)

theorem step_of_suspended {r : Reg} (hn : SliceNext s) (ha : s.awaited = some r) : step s = .next s.takeEvent.beginSlice :=
  (step_of_sliceNext hn).trans (slice_of_awaited (s := s.takeEvent) ha)

theorem cycle_of_outside (hpc : 0xFFF ≤ s.pc.toNat) : s.cycle = .fault (.addressFault .fetch s.pc s) := by
  have hr : inRange s.pc.toNat 2 = false := by simp [inRange]; omega
  simp [State.cycle, hr]

theorem cycle_of_decode {i : Instr} (hpc : s.pc.toNat ≤ 0xFFE) (hd : decodeWord s.fetchWord = .ok i) :
    s.cycle = exec i s.advancePc := by
  simp [State.cycle, (inRange_iff s.pc.toNat 2).2 (by omega), hd]

theorem cycle_of_undecodable {e : DecodeError} (hpc : s.pc.toNat ≤ 0xFFE) (hd : decodeWord s.fetchWord = .error e) :
    s.cycle = .fault (.illegal s.fetchWord s.advancePc) := by
  simp [State.cycle, (inRange_iff s.pc.toNat 2).2 (by omega), hd]

/-- The tick check and the schedule have no say in the word fetched. -/
@[simp] theorem fetchWord_beginSlice (s : State) : s.beginSlice.fetchWord = s.fetchWord := by simp [State.fetchWord]

@[simp] theorem fetchWord_takeEvent (s : State) : s.takeEvent.fetchWord = s.fetchWord := by simp [State.fetchWord]

theorem step_of_decode {i : Instr} (hn : SliceNext s) (ha : s.awaited = none) (hpc : s.pc.toNat ≤ 0xFFE)
    (hd : decodeWord s.fetchWord = .ok i) : step s = exec i s.takeEvent.beginSlice.advancePc :=
  (step_of_ready hn ha).trans (cycle_of_decode (by simpa using hpc) (by simpa using hd))

theorem step_of_undecodable {e : DecodeError} (hn : SliceNext s) (ha : s.awaited = none) (hpc : s.pc.toNat ≤ 0xFFE)
    (hd : decodeWord s.fetchWord = .error e) :
    step s = .fault (.illegal s.fetchWord s.takeEvent.beginSlice.advancePc) := by
  rw [step_of_ready hn ha, cycle_of_undecodable (e := e) (by simpa using hpc) (by simpa using hd)]
  simp

/-- The word whose value is `mem[pc] * 256 + mem[pc + 1]` is the one fetched (rule R45). -/
theorem eq_fetchWord {w : Word} (hw : w.toNat = (s.byteAt s.pc.toNat).toNat * 256 + (s.byteAt (s.pc.toNat + 1)).toNat) :
    w = s.fetchWord :=
  BitVec.eq_of_toNat_eq (hw.trans (toNat_wordOfBytes _ _).symm)

/-- What has changed when a cycle begins. -/
theorem startOfCycle_sameBut (s : State) : SameBut [.tick, .delay, .sound, .started, .schedule] s s.takeEvent.beginSlice :=
  (s.takeEvent_sameBut.mono (by decide)).trans (s.takeEvent.beginSlice_sameBut.mono (by decide))

/-- What has changed when the body of an instruction begins. -/
theorem startOfBody_sameBut (s : State) :
    SameBut [.pc, .tick, .delay, .sound, .started, .schedule] s s.takeEvent.beginSlice.advancePc :=
  ((startOfCycle_sameBut s).mono (by decide)).trans ((State.advancePc_sameBut _).mono (by decide))

/-- Settles O11: the step by the word fetched, and the start state field by field. -/
theorem stepRunsTheDecodedInstruction : Obligations.StepRunsTheDecodedInstruction := fun s _ hn ha hpc hd =>
  ⟨step_of_decode hn ha hpc (decode_at_pc.1 hd), by simp, by simp, rfl, by simp, by simp, by simp, startOfBody_sameBut s⟩

/-- Settles O13: the word of the two bytes is the one fetched. -/
theorem fetchIsBigEndian : Obligations.FetchIsBigEndian := by
  intro s w hn ha hpc hw
  obtain rfl := eq_fetchWord hw
  exact ⟨fun _ hd => step_of_decode hn ha hpc hd, fun _ hd => step_of_undecodable hn ha hpc hd⟩

/-- Settles O16: a suspended step is its tick check. -/
theorem suspendedSliceOnlyTicks : Obligations.SuspendedSliceOnlyTicks := fun s _ hn ha =>
  ⟨_, step_of_suspended hn ha, by simp, by simp, by simp, by simp, rfl, startOfCycle_sameBut s⟩

/-- Settles O19: the fetch is refused before anything of the cycle happens. -/
theorem fetchOutsideMemoryFaults : Obligations.FetchOutsideMemoryFaults := by
  intro s hn ha hpc
  refine ⟨s.takeEvent.beginSlice, ?_, startOfCycle_sameBut s⟩
  rw [step_of_ready hn ha, cycle_of_outside (by simpa using hpc)]
  simp

/-- The canonical word of sys is its payload. -/
theorem toNat_encode_sys (nnn : Addr) : (encode (.sys nnn)).toNat = nnn.toNat := by
  rw [encode, toNat_formNNN (by omega)]; omega

theorem exec_sys (nnn : Addr) (s : State) : exec (.sys nnn) s = .fault (.unsupported (encode (.sys nnn)) s) := rfl

/-- Settles O26: sys raises its fault from every state, and it is what family 0x0 leaves. -/
theorem sysAlwaysFaultsUnsupported : Obligations.SysAlwaysFaultsUnsupported :=
  ⟨fun nnn s => ⟨_, toNat_encode_sys nnn, exec_sys nnn s⟩, fun _ => decodeWord_sys⟩

theorem step_of_unsupportedWord (hn : SliceNext s) (ha : s.awaited = none) (hpc : s.pc.toNat ≤ 0xFFE)
    (hu : UnsupportedWord s.fetchWord) :
    step s = .fault (.unsupported s.fetchWord s.takeEvent.beginSlice.advancePc) := by
  obtain ⟨hd, hnnn⟩ := decodeWord_of_unsupportedWord hu
  have hword : encode (.sys (views s.fetchWord).nnn) = s.fetchWord :=
    BitVec.eq_of_toNat_eq ((toNat_encode_sys _).trans hnnn)
  rw [step_of_decode hn ha hpc hd, exec_sys, hword]

/-- Settles O20: either fault is raised in the state the body would start from. -/
theorem illegalAndUnsupportedAdvancePcOnly : Obligations.IllegalAndUnsupportedAdvancePcOnly := by
  intro s w hn ha hpc hw
  obtain rfl := eq_fetchWord hw
  exact ⟨fun hi => ⟨_, step_of_undecodable hn ha hpc (decodeWord_of_illegalWord hi), by simp, startOfBody_sameBut s, rfl⟩,
    fun hu => ⟨_, step_of_unsupportedWord hn ha hpc hu, by simp, startOfBody_sameBut s, rfl⟩⟩

/-- The placed word stands where it can be fetched. -/
theorem fetchPoint_le (s : State) : (fetchPoint s).toNat ≤ 0xFFE := by
  unfold fetchPoint
  split
  · next h => have := (inRange_iff _ _).1 h; omega
  · decide

/-- Two bytes stored at `pc` are the word fetched next. -/
theorem fetchWord_writeBytes (hs : s.memWf = true) (hpc : s.pc.toNat ≤ 0xFFE) (hi lo : Byte) :
    (s.writeBytes s.pc.toNat [hi, lo]).fetchWord = wordOfBytes hi lo := by
  have hsame (k : Nat) (hk : k < [hi, lo].length) :=
    byteAt_writeBytes_same (a := s.pc.toNat) (bs := [hi, lo]) hs (.inr (by simp; omega)) k hk
  have hpc' : (s.writeBytes s.pc.toNat [hi, lo]).pc = s.pc := s.writeBytes_sameBut _ _ .pc (by simp)
  rw [State.fetchWord, hpc', hsame 1 (by simp)]
  exact congrArg (wordOfBytes · lo) (hsame 0 (by simp))

/-- A word of the table's numbering decodes as the word of its two bytes. -/
theorem decodeWord_of_decodeTableWord {w : Nat} {i : Instr} (h : decodeTableWord 16 w = some i) :
    decodeWord (wordOfBytes (hiByte (BitVec.ofNat 16 (w % 2 ^ 16))) (loByte (BitVec.ofNat 16 (w % 2 ^ 16)))) = .ok i := by
  rw [decodeTableWord, tableWordBytes, decode] at h
  generalize decodeWord (wordOfBytes _ _) = d at h
  cases d <;> simp_all [Except.map]

/-- Settles O12: the state with the word placed has no event pending and no wait, and the placed word is fetched. -/
theorem placedWordIsRunNext : Obligations.PlacedWordIsRunNext := by
  intro s w i hs hw
  have hframe := s.readyToFetch.writeBytes_sameBut s.readyToFetch.pc.toNat (tableWordBytes 16 w)
  have hpc : (s.withFetchWord 16 w).pc = fetchPoint s := hframe .pc (by simp)
  refine step_of_decode (.inl (hframe .schedule (by simp))) (hframe .awaited (by simp)) ?_ ?_
  · rw [hpc]; exact fetchPoint_le s
  · exact (congrArg decodeWord (fetchWord_writeBytes (s := s.readyToFetch) hs (fetchPoint_le s) _ _)).trans
      (decodeWord_of_decodeTableWord hw)

/-- Settles O3: the bytes at 0x200 are zero after reset, which is an Unsupported word, and 60 does not exceed 540. -/
theorem unloadedMachineFaultsUnsupported : Obligations.UnloadedMachineFaultsUnsupported := by
  have hword : State.reset.fetchWord = 0x0000#16 := by decide
  have hstep := step_of_unsupportedWord (s := State.reset) (.inl rfl) rfl (by decide) (by rw [hword]; simp [UnsupportedWord])
  rw [hword] at hstep
  have htick : State.reset.takeEvent.tickCheck = { State.reset.takeEvent with tickAcc := 60 } :=
    tickCheck_of_within (by decide)
  refine ⟨_, hstep, by decide, by decide, ?_⟩
  intro p hp
  cases p
  case delay => simp [Unchanged, htick]
  case sound => simp [Unchanged, htick]
  case schedule => rfl
  case pc | tick | started => simp at hp
  all_goals exact startOfBody_sameBut State.reset _ (by simp)

end Sys2Proof.Machine
end

section
/-! PROOFS. The tick divider over many slices (rules R181 to R183), and runs in which every step does its tick check and nothing
else: a machine that awaits a key (rule R184) and one that jumps to its own address (rule R212). -/

namespace Sys2Proof.Machine

variable {s t : State}

/-- Settles O15: the two sides of the divider's comparison. -/
theorem tickCheckDividesTheClock : Obligations.TickCheckDividesTheClock := by
  intro s
  refine ⟨fun h => ?_, fun h => ?_, s.tickCheck_sameBut⟩
  · rw [tickCheck_of_exceeds h]
    exact ⟨by simp only; omega, toNat_countDown _, toNat_countDown _⟩
  · rw [tickCheck_of_within h]
    exact ⟨rfl, rfl, rfl⟩

/-! ### Runs of tick checks -/

theorem run_succ_of_next (n : Nat) (h : step s = .next t) : Sys2Proof.core.run (n + 1) s = Sys2Proof.core.run n t := by
  have hstep : Sys2Proof.core.step s = .next t := h
  simp only [Host.Core.run, hstep]

/-- When every step is its tick check, as a condition that lasts says, so is the run. -/
theorem run_eq_iterate_beginSlice {Q : State → Prop} (hstep : ∀ s, Q s → step s = .next s.beginSlice)
    (hlast : ∀ s, Q s → Q s.beginSlice) (n : Nat) (hs : Q s) :
    Sys2Proof.core.run n s = .next (State.beginSlice^[n] s) := by
  induction n generalizing s with
  | zero => rfl
  | succ n ih => rw [run_succ_of_next n (hstep s hs), ih (hlast s hs), Function.iterate_succ_apply]

theorem iterate_beginSlice_sameBut (n : Nat) (s : State) :
    SameBut [.tick, .delay, .sound, .started] s (State.beginSlice^[n] s) := by
  induction n generalizing s with
  | zero => exact SameBut.refl _ s
  | succ n ih => exact s.beginSlice_sameBut.trans (ih s.beginSlice)

/-- With nothing scheduled there is no event to take. -/
theorem takeEvent_of_nil (h : s.schedule = []) : s.takeEvent = s := by
  cases s; simp_all [State.takeEvent]

/-! ### A machine that awaits a key -/

/-- Register `r` is awaited and nothing is scheduled. -/
def AwaitsKey (r : Reg) (s : State) : Prop := s.awaited = some r ∧ s.schedule = []

theorem run_of_awaitsKey {r : Reg} (n : Nat) (h : AwaitsKey r s) :
    Sys2Proof.core.run n s = .next (State.beginSlice^[n] s) := by
  refine run_eq_iterate_beginSlice (Q := AwaitsKey r) (fun s hs => ?_) (fun s hs => ?_) n h
  · rw [step_of_suspended (.inl hs.2) hs.1, takeEvent_of_nil hs.2]
  · exact ⟨s.beginSlice_awaited.trans hs.1, s.beginSlice_schedule.trans hs.2⟩

/-- The ticks of `n` slices from a divider at 0. -/
def ticksIn (hz n : Nat) : Nat := (60 * n - 1) / hz

/-- With `a` left in the divider after `n` slices, one more slice is one more tick exactly when `a + 60` exceeds the period. -/
theorem ticksIn_succ {hz n a : Nat} (hz60 : 60 ≤ hz) (ha : a + hz * ticksIn hz n = 60 * n) :
    ticksIn hz (n + 1) = if hz < a + 60 then ticksIn hz n + 1 else ticksIn hz n := by
  have hlt : 60 * n - 1 < hz * (ticksIn hz n + 1) := Nat.lt_mul_div_succ _ (by omega)
  have hsucc (q : Nat) : hz * (q + 1) = hz * q + hz := Nat.mul_succ hz q
  rw [hsucc] at hlt
  split_ifs with h
  · refine Nat.div_eq_of_lt_le ?_ ?_
    · rw [Nat.mul_comm _ hz, hsucc]; omega
    · rw [Nat.mul_comm _ hz, hsucc, hsucc]; omega
  · refine Nat.div_eq_of_lt_le ?_ ?_
    · rw [Nat.mul_comm _ hz]; omega
    · rw [Nat.mul_comm _ hz, hsucc]; omega

/-- Both timers and the divider after `n` tick checks from a divider at 0 (rules R181, R182). -/
theorem iterate_beginSlice_timers (hz60 : 60 ≤ s.cfg.clockHz) (h0 : s.tickAcc = 0) (n : Nat) :
    (State.beginSlice^[n] s).DT.toNat = s.DT.toNat - ticksIn s.cfg.clockHz n ∧
    (State.beginSlice^[n] s).ST.toNat = s.ST.toNat - ticksIn s.cfg.clockHz n ∧
    (State.beginSlice^[n] s).tickAcc + s.cfg.clockHz * ticksIn s.cfg.clockHz n = 60 * n := by
  induction n with
  | zero => simp [ticksIn, h0]
  | succ n ih =>
    obtain ⟨hDT, hST, hacc⟩ := ih
    have hcfg : (State.beginSlice^[n] s).cfg = s.cfg := iterate_beginSlice_sameBut n s .cfg (by simp)
    rw [Function.iterate_succ_apply', ticksIn_succ hz60 hacc]
    generalize State.beginSlice^[n] s = u at *
    simp only [State.beginSlice_DT, State.beginSlice_ST, State.beginSlice_tickAcc]
    split_ifs with h
    · rw [tickCheck_of_exceeds (by rwa [hcfg])]
      simp only [toNat_countDown, hcfg, Nat.mul_succ]
      exact ⟨by omega, by omega, by omega⟩
    · rw [tickCheck_of_within (by rw [hcfg]; omega)]
      exact ⟨hDT, hST, by simp only; omega⟩

/-- Settles O18: a suspended run is its tick checks, and the timers after them are counted by `ticksIn`. -/
theorem timersCountDownAtSixtyHertz : Obligations.TimersCountDownAtSixtyHertz := fun n _ _ hv h0 ha hs =>
  ⟨_, run_of_awaitsKey n ⟨ha, hs⟩, iterate_beginSlice_timers (clockHz_of_valid hv) h0 n⟩

theorem press_of_none {k : Key} (h : s.awaited = none) : s.press k = s.setKey k true := by simp [State.press, h]

theorem press_of_awaited {r : Reg} {k : Key} (h : s.awaited = some r) :
    s.press k = ((s.setKey k true).setV r (keyByte k)).setAwaited none := by simp [State.press, h]

/-- The key code widened with zeros (rule R186). -/
theorem toNat_keyByte (k : Key) : (keyByte k).toNat = k.val := by
  rw [keyByte, BitVec.toNat_ofNat]; omega

/-- A press that ends a wait writes the code into the awaited register and no other. -/
theorem press_of_awaited_V {r : Reg} {k : Key} (h : s.awaited = some r) :
    (s.press k).V[r].toNat = k.val ∧ RegsSameBut [r] s (s.press k) := by
  rw [press_of_awaited h]
  refine ⟨?_, fun q hq => (s.setKey k true).setV_regsSameBut r (keyByte k) q hq⟩
  rw [State.setAwaited_V, State.setV_V_self, toNat_keyByte]

/-- Settles O46: a suspended run is its tick checks, which leave the wait and the registers to the press. -/
theorem waitLastsUntilThePress : Obligations.WaitLastsUntilThePress := by
  intro n r k s ha hs
  have hsame := iterate_beginSlice_sameBut n s
  have ha' : (State.beginSlice^[n] s).awaited = some r := Eq.trans (hsame .awaited (by simp)) ha
  obtain ⟨hV, hregs⟩ := press_of_awaited_V (k := k) ha'
  refine ⟨_, run_of_awaitsKey n ⟨ha, hs⟩, ha', hsame, _, rfl, hV, ?_, ?_, ?_⟩
  · exact fun q hq => (hregs q hq).trans (hsame .regs (by simp) q)
  · rw [press_of_awaited ha']; exact hsame .pc (by simp)
  · rw [press_of_awaited ha']; rfl

/-! ### A machine that jumps to its own address -/

/-- At `pc` stands a jump to `pc`, nothing is awaited and nothing is scheduled. -/
structure AtSelfJump (nnn : Addr) (s : State) : Prop where
  pc_eq : s.pc = addrWord nnn
  decodes : decodeWord s.fetchWord = .ok (.jump nnn)
  ready : s.awaited = none
  quiet : s.schedule = []

theorem AtSelfJump.beginSlice {nnn : Addr} (h : AtSelfJump nnn s) : AtSelfJump nnn s.beginSlice :=
  ⟨s.beginSlice_pc.trans h.pc_eq, by rw [fetchWord_beginSlice]; exact h.decodes, s.beginSlice_awaited.trans h.ready,
    s.beginSlice_schedule.trans h.quiet⟩

/-- The jump undoes the advance, and the tick check is all that remains of the slice. -/
theorem AtSelfJump.step_eq {nnn : Addr} (hnnn : nnn.toNat ≤ 0xFFE) (h : AtSelfJump nnn s) : step s = .next s.beginSlice := by
  have hpc : s.pc.toNat ≤ 0xFFE := by rw [h.pc_eq, toNat_addrWord]; exact hnnn
  calc step s = exec (.jump nnn) s.takeEvent.beginSlice.advancePc := step_of_decode (.inl h.quiet) h.ready hpc h.decodes
    _ = .next (s.beginSlice.advancePc.setPc (addrWord nnn)) := by rw [takeEvent_of_nil h.quiet]; rfl
    _ = .next s.beginSlice := by rw [← h.beginSlice.pc_eq]; rfl

/-- Settles O58: the run is its tick checks. -/
theorem selfJumpEndsTheRun : Obligations.SelfJumpEndsTheRun := fun n nnn s hpc hnnn ha hs hd =>
  ⟨_, run_eq_iterate_beginSlice (Q := AtSelfJump nnn) (fun _ h => h.step_eq hnnn) (fun _ h => h.beginSlice) n
    ⟨hpc, decode_at_pc.1 hd, ha, hs⟩, iterate_beginSlice_sameBut n s⟩

end Sys2Proof.Machine
end

section
/-! PROOFS. The host's events (rules R186 to R188, R200 to R206): reset, press and release, the view of the framebuffer, and the
copy that load makes. -/

namespace Sys2Proof.Machine

variable {s : State}

/-! ### Reset -/

/-- Reset memory is the font, then zeros (rules R11, R44). -/
theorem init_byteAt (c : Config) (a : Nat) : (State.init c).byteAt a = resetByte c.font a := rfl

/-- Settles O1: each element's reset value as written in `State.init`. -/
theorem resetLeavesEveryElementAtItsValue : Obligations.ResetLeavesEveryElementAtItsValue := by
  refine ⟨fun c => ⟨fun a => ?_, fun a ha => ?_, ?_⟩, rfl, rfl⟩
  · rw [init_byteAt, resetByte, dif_pos a.isLt]; rfl
  · rw [init_byteAt, resetByte, dif_neg (by omega)]; rfl
  · simp [State.init]

/-- The reset block is the machine as created, but for the two fields that are not the block's. -/
theorem resetBlock_sameBut (s : State) : SameBut [.draws, .schedule] (State.init s.cfg) s.resetBlock := by
  intro p hp
  cases p
  case draws | schedule => simp at hp
  all_goals simp [Unchanged, State.resetBlock, State.byteAt]

/-- Settles O4: delivering reset is the reset block. -/
theorem resetEventRestoresCreation : Obligations.ResetEventRestoresCreation := by
  intro s rest hs
  obtain ⟨hstep, hrest⟩ := step_of_event hs
  exact ⟨_, hstep, resetBlock_sameBut s.takeEvent, rfl, hrest⟩

/-! ### Keys -/

theorem setKey_keys_self (s : State) (k : Key) (b : Bool) : (s.setKey k b).keys[k] = b := by simp

theorem setKey_keys_other (s : State) {j k : Key} (b : Bool) (h : j ≠ k) : (s.setKey k b).keys[j] = s.keys[j] := by
  simp [Vector.getElem_set_ne, Fin.val_ne_of_ne h.symm]

/-- What an event's own effect leaves unchanged, and the schedule, is all a step that delivers it changes. -/
theorem sameBut_of_takeEvent {ps : List Part} {t : State} (h : SameBut ps s.takeEvent t) : SameBut (ps ++ [.schedule]) s t :=
  (s.takeEvent_sameBut.mono (by simp)).trans (h.mono (by simp))

/-- A press that ends a wait touches keys, registers and the wait. -/
theorem press_of_awaited_sameBut {r : Reg} {k : Key} (h : s.awaited = some r) :
    SameBut [.keys, .regs, .awaited] s (s.press k) := by
  rw [press_of_awaited h]
  exact ((s.setKey_sameBut k true).mono (by decide)).trans
    (((State.setV_sameBut _ r (keyByte k)).mono (by decide)).trans ((State.setAwaited_sameBut _ none).mono (by decide)))

/-- Settles O45: the three events, each by its writes and its frame. -/
theorem pressAndReleaseUpdateTheKeys : Obligations.PressAndReleaseUpdateTheKeys := by
  intro k s rest
  refine ⟨fun hs ha => ?_, fun r hs ha => ?_, fun hs => ?_⟩
  · obtain ⟨hstep, hrest⟩ := step_of_event hs
    have hpress : s.takeEvent.press k = s.takeEvent.setKey k true := press_of_none ha
    exact ⟨s.takeEvent.setKey k true, hstep.trans (congrArg Host.Outcome.next hpress), setKey_keys_self _ k true,
      fun _ => setKey_keys_other _ true, hrest,
      sameBut_of_takeEvent (State.setKey_sameBut _ k true)⟩
  · obtain ⟨hstep, hrest⟩ := step_of_event hs
    have ha' : s.takeEvent.awaited = some r := ha
    obtain ⟨hV, hregs⟩ := press_of_awaited_V (k := k) ha'
    have hpress := press_of_awaited (k := k) ha'
    refine ⟨_, hstep, ?_, fun j hj => ?_, hV, hregs, ?_, ?_, sameBut_of_takeEvent (press_of_awaited_sameBut ha')⟩
    · rw [hpress]; exact setKey_keys_self s.takeEvent k true
    · rw [hpress]; exact setKey_keys_other s.takeEvent true hj
    · rw [hpress]; rfl
    · rw [hpress]; exact hrest
  · obtain ⟨hstep, hrest⟩ := step_of_event hs
    exact ⟨_, hstep, setKey_keys_self _ k false, fun _ => setKey_keys_other _ false, hrest,
      sameBut_of_takeEvent (State.setKey_sameBut _ k false)⟩

/-! ### The view of the framebuffer -/

/-- Settles O47: the event delivers the state as it is; the view is the rows as lists. -/
theorem pixelsIsAReadOnlyView : Obligations.PixelsIsAReadOnlyView := by
  intro s rest
  refine ⟨fun hs => ?_, by simp [State.pixels], fun y x => by simp [State.pixels], fun row hrow => ?_⟩
  · obtain ⟨hstep, hrest⟩ := step_of_event hs
    exact ⟨_, hstep, hrest, s.takeEvent_sameBut⟩
  · obtain ⟨v, -, rfl⟩ := List.mem_map.1 hrow
    exact v.length_toList

/-! ### Loading -/

/-- The copy of an image: byte `k` at 0x200 + `k`, at most 3584 of them, and no other byte (rule R204). -/
theorem loadImage_bytes (hs : s.memWf = true) (b : List Byte) :
    (∀ (k : Nat) (hk : k < b.length), k < 3584 → (s.loadImage b).byteAt (0x200 + k) = b[k]) ∧
    BytesSameBut 0x200 (min 3584 b.length) s (s.loadImage b) := by
  have hlen : (b.take progMax).length = min 3584 b.length := List.length_take
  constructor
  · intro k hk hmax
    have hk' : k < (b.take progMax).length := by rw [hlen]; omega
    rw [State.loadImage, show 0x200 = progBase from rfl,
      byteAt_writeBytes_same hs (.inr (by rw [hlen]; simp [progBase]; omega)) k hk', List.getElem_take]
  · intro a ha
    exact byteAt_writeBytes_other s (by rw [hlen]; exact ha)

theorem loadImage_sameBut (s : State) (b : List Byte) : SameBut [.mem] s (s.loadImage b) := s.writeBytes_sameBut _ _

/-- Settles O48: before the first slice a load is the copy, and a failure when the image is longer than that. -/
theorem loadCopiesTheImage : Obligations.LoadCopiesTheImage := by
  intro b s rest hwf hstart hs
  obtain ⟨hstep, hrest⟩ := step_of_event hs
  obtain ⟨hbytes, hother⟩ := loadImage_bytes (s := s.takeEvent) hwf b
  have hframe := loadImage_sameBut s.takeEvent b
  have hsched : (s.takeEvent.loadImage b).schedule = rest := Eq.trans (hframe .schedule (by simp)) hrest
  refine ⟨fun hlen => ⟨s.takeEvent.loadImage b, ?_, fun k => hbytes k k.isLt (by omega), ?_, hsched,
    sameBut_of_takeEvent hframe⟩, fun hlen => ⟨s.takeEvent.loadImage b, ?_, fun k => hbytes k k.isLt, ?_, hsched,
    sameBut_of_takeEvent hframe⟩⟩
  · exact hstep.trans (load_of_fits (s := s.takeEvent) hstart hlen)
  · rwa [min_eq_right hlen] at hother
  · exact hstep.trans (load_of_oversized (s := s.takeEvent) hstart hlen)
  · rwa [min_eq_left hlen.le] at hother

/-- Settles O49: a started machine refuses the load, a slice starts the machine and no instruction undoes it, and reset does. -/
theorem loadHasNoMoveAfterTheFirstSlice : Obligations.LoadHasNoMoveAfterTheFirstSlice := by
  refine ⟨fun b s rest hstart hs => ?_, fun s hs => ?_, fun s t rest hs ht => ?_⟩
  · exact (step_of_event hs).1.trans (load_of_started (s := s.takeEvent) hstart)
  · rw [step_of_sliceNext hs]
    refine slice_leaves (P := fun t => t.started = true) rfl (fun _ => rfl) fun i t _ h => ?_
    obtain ⟨-, -, -, hstart, -⟩ := exec_keeps_clocks h
    exact hstart
  · rw [(step_of_event hs).1] at ht
    cases ht; rfl

end Sys2Proof.Machine
end

section
/-! PROOFS. The memory transfers (rules R47, R52, R143 to R145): each is its bounds check around a run of stores or loads. -/

namespace Sys2Proof.Machine

variable {s t : State}

/-! ### The stores -/

theorem exec_storeBcd_of_inRange (x : Reg) (h : s.base + 2 ≤ 0xFFF) :
    exec (.storeBcd x) s = .next (s.writeBytes s.base (bcdDigits (s.reg x))) :=
  guardRange_of_inRange (.inr h)

theorem exec_storeRegs_of_inRange (x : Reg) (h : s.base + x.val ≤ 0xFFF) :
    exec (.storeRegs x) s = .next (s.writeBytes s.base ((regsUpTo x).map s.reg)) :=
  guardRange_of_inRange (.inr h)

@[simp] theorem length_bcdDigits (v : Byte) : (bcdDigits v).length = 3 := rfl

/-- The digits fit their bytes (rule R143; conflict C6). -/
theorem toNat_bcdDigits (v : Byte) (k : Nat) (hk : k < 3) :
    ((bcdDigits v)[k]'hk).toNat = [v.toNat / 100, v.toNat / 10 % 10, v.toNat % 10][k] := by
  have := v.isLt
  interval_cases k <;> simp [bcdDigits] <;> omega

/-- Settles O36: the three stored bytes are read back, and the bounds check guards them. -/
theorem storeBcdStoresTheDigits : Obligations.StoreBcdStoresTheDigits := by
  intro x s
  refine ⟨fun hwf hr => ⟨_, exec_storeBcd_of_inRange x hr, ?_⟩, fun hr => guardRange_of_outside (by omega) (by exact hr),
    fun _ => decodeWord_storeBcd⟩
  have hsame (k : Nat) (hk : k < 3) :
      ((s.writeBytes s.base (bcdDigits (s.reg x))).byteAt (s.base + k)).toNat = _ :=
    (congrArg BitVec.toNat (byteAt_writeBytes_same (bs := bcdDigits (s.reg x)) hwf (.inr (by simp; omega)) k hk)).trans
      (toNat_bcdDigits (s.reg x) k hk)
  exact ⟨hsame 0 (by omega), hsame 1 (by omega), hsame 2 (by omega), fun a ha => byteAt_writeBytes_other s ha,
    s.writeBytes_sameBut _ _⟩

/-- What a completing store-regs leaves at `I` to `I + x`. -/
theorem storeRegs_byteAt (hwf : s.memWf = true) {x : Reg} (hr : s.base + x.val ≤ 0xFFF) {k : Reg} (hk : k ≤ x) :
    (s.writeBytes s.base ((regsUpTo x).map s.reg)).byteAt (s.base + k.val) = s.V[k] := by
  have hk' : k.val ≤ x.val := hk
  rw [byteAt_writeBytes_same hwf (.inr (by simp; omega)) k.val (by simp; omega), List.getElem_map, regsUpTo_getElem]
  rfl

/-- Settles O37: the stored block is read back, and the bounds check guards it. -/
theorem storeRegsStoresTheBlock : Obligations.StoreRegsStoresTheBlock := by
  intro x s
  refine ⟨fun hwf hr => ⟨_, exec_storeRegs_of_inRange x hr, fun k => storeRegs_byteAt hwf hr, ?_, s.writeBytes_sameBut _ _⟩,
    fun hr => guardRange_of_outside (by omega) (by exact hr), fun _ => decodeWord_storeRegs⟩
  intro a ha
  exact byteAt_writeBytes_other s (by simpa using ha)

/-- Settles O39: the store leaves `pc`, the wait and the schedule, and the two bytes at `pc` are the registers'. -/
theorem storedBytesAreFetchedNext : Obligations.StoredBytesAreFetchedNext := by
  intro x i s t hwf h hbase hx ha hsched hd
  obtain ⟨hr, rfl⟩ := eq_of_guardRange_next h
  have hr' : s.base + x.val ≤ 0xFFF := by rw [State.base]; omega
  have hframe := s.writeBytes_sameBut s.base ((regsUpTo x).map s.reg)
  have hpc : (s.writeBytes s.base ((regsUpTo x).map s.reg)).pc = s.pc := hframe .pc (by simp)
  have h0 := storeRegs_byteAt hwf hr' (k := 0) (Fin.zero_le x)
  have h1 := storeRegs_byteAt hwf hr' (k := 1) (Fin.le_def.2 hx)
  refine step_of_decode (.inl (Eq.trans (hframe .schedule (by simp)) hsched)) (Eq.trans (hframe .awaited (by simp)) ha)
    (by rw [hpc]; omega) (decode_at_pc.1 ?_)
  rw [hpc, ← hbase]
  exact (congrArg₂ (fun hi lo => decode [hi, lo]) h0 h1).trans hd

/-! ### The load -/

theorem exec_loadRegs_of_inRange (x : Reg) (h : s.base + x.val ≤ 0xFFF) :
    exec (.loadRegs x) s = .next (s.loadRegs (regsUpTo x)) :=
  guardRange_of_inRange (.inr h)

/-- Settles O38: the registers of the block are loaded, the later ones are not in it. -/
theorem loadRegsLoadsTheBlock : Obligations.LoadRegsLoadsTheBlock := by
  intro x s
  refine ⟨fun hr => ⟨_, exec_loadRegs_of_inRange x hr, fun k hk => ?_, fun k hk => ?_, s.loadRegs_sameBut _⟩,
    fun hr => guardRange_of_outside (by omega) (by exact hr), fun _ => decodeWord_loadRegs⟩
  · rw [loadRegs_V, if_pos (mem_regsUpTo.2 hk)]
  · rw [loadRegs_V, if_neg (by rw [mem_regsUpTo]; exact not_le.2 hk)]

end Sys2Proof.Machine
end

section
/-! PROOFS. Control transfer and skips (rules R101 to R105, R110 to R115): the state each instruction leaves, and its words. -/

namespace Sys2Proof.Machine

variable {s : State}

/-- Settles O22: the two targets as numbers. -/
theorem jumpsSetTheProgramCounter : Obligations.JumpsSetTheProgramCounter := fun nnn s =>
  ⟨⟨_, rfl, toNat_addrWord nnn, s.setPc_sameBut _⟩, ⟨_, rfl, toNat_jumpV0Target nnn s.V[0], s.setPc_sameBut _⟩,
    fun _ => decodeWord_jump, fun _ => decodeWord_jumpV0⟩

/-- The slot a push writes, and the others. -/
theorem push_stack_self {k : Fin 16} (v : Word) (h : s.sp.val < 16) (hk : s.sp.val = k.val) :
    (s.push v h).stack[k] = v := by
  simp [hk]

theorem push_stack_other {j k : Fin 16} (v : Word) (h : s.sp.val < 16) (hk : s.sp.val = k.val) (hj : j ≠ k) :
    (s.push v h).stack[j] = s.stack[j] := by
  simp [hk, Vector.getElem_set_ne, Fin.val_ne_of_ne hj.symm]

/-- Settles O23: call is a push and a jump while a slot is free. -/
theorem callPushesTheReturnAddress : Obligations.CallPushesTheReturnAddress := by
  intro nnn s
  refine ⟨fun k hk => ?_, fun hsp => exec_call_of_full nnn (by omega), fun _ => decodeWord_call⟩
  have hlt : s.sp.val < 16 := by omega
  exact ⟨_, exec_call_of_lt nnn hlt, push_stack_self s.pc hlt hk, rfl, toNat_addrWord nnn,
    fun j hj => push_stack_other s.pc hlt hk hj,
    ((s.push_sameBut s.pc hlt).mono (by decide)).trans ((State.setPc_sameBut _ _).mono (by decide))⟩

/-- Settles O24: return is a pop while an address is held. -/
theorem returnPopsTheReturnAddress : Obligations.ReturnPopsTheReturnAddress := by
  refine ⟨by decide, fun s => ⟨fun k hk => ?_, exec_ret_of_zero⟩⟩
  have hpos : 0 < s.sp.val := by omega
  exact ⟨_, exec_ret_of_pos hpos, by simp [hk], by simp [hk], s.popToPc_sameBut hpos⟩

/-- Settles O25: the slot popped is the one pushed, because the stack pointer is the one the push left. -/
theorem returnUndoesCall : Obligations.ReturnUndoesCall := by
  intro nnn s t u h hstack hsp
  obtain ⟨hlt, rfl⟩ := eq_of_exec_call_next h
  have hsp' : u.sp.val = s.sp.val + 1 := by rw [hsp]; rfl
  refine ⟨_, exec_ret_of_pos (s := u) (by omega), ?_, ?_⟩
  · simp [hstack, hsp']
  · apply Fin.ext; simp [hsp']

/-- A skip on a decided condition: it completes, touches `pc` only, and says where `pc` goes. -/
theorem skipIf_spec {c : Bool} {taken untaken : Prop} (ht : taken → c = true) (hu : untaken → c = false) :
    ∃ t, skipIf c s = .next t ∧ SameBut [.pc] s t ∧ (taken → t.pc = s.pc + 2) ∧ (untaken → t.pc = s.pc) := by
  cases c
  · exact ⟨s, rfl, SameBut.refl _ s, fun h => absurd (ht h) Bool.false_ne_true, fun _ => rfl⟩
  · exact ⟨s.advancePc, rfl, s.advancePc_sameBut, fun _ => rfl, fun h => absurd (hu h).symm Bool.false_ne_true⟩

/-- Settles O27: each compare skip is a skip on its comparison. -/
theorem compareSkipsAdvanceWhenConditionHolds : Obligations.CompareSkipsAdvanceWhenConditionHolds := by
  intro x y nn s
  exact ⟨skipIf_spec (c := s.reg x == nn) (by simp) (by simp), skipIf_spec (c := s.reg x != nn) (by simp) (by simp),
    skipIf_spec (c := s.reg x == s.reg y) (by simp) (by simp), skipIf_spec (c := s.reg x != s.reg y) (by simp) (by simp),
    fun _ => decodeWord_skipEqByte, fun _ => decodeWord_skipNeqByte, fun _ => decodeWord_skipEq,
    fun _ => decodeWord_skipNeq⟩

theorem skipOnKey_of_key {x : Reg} {k : Key} (wanted : Bool) (h : s.V[x].toNat = k.val) :
    skipOnKey x wanted s = skipIf (s.keys[k] == wanted) s := by
  simp only [skipOnKey, State.reg_eq, keyOf_of_key h]

theorem skipOnKey_of_large {x : Reg} (wanted : Bool) (h : 15 < s.V[x].toNat) :
    skipOnKey x wanted s = .fault (.keyIndexFault s.V[x] s) := by
  simp only [skipOnKey, State.reg_eq, keyOf_of_large h, raise_eq]

/-- Settles O28: a key skip is a skip on the flag of the key that `V[x]` numbers. -/
theorem keySkipsLookAtTheKeyTable : Obligations.KeySkipsLookAtTheKeyTable := by
  intro x s
  refine ⟨fun k hk => ⟨?_, ?_⟩, fun hlarge => ⟨skipOnKey_of_large true hlarge, skipOnKey_of_large false hlarge⟩,
    fun _ => decodeWord_skipPressed, fun _ => decodeWord_skipNotPressed⟩
  · rw [show exec (.skipPressed x) s = skipIf (s.keys[k] == true) s from skipOnKey_of_key true hk]
    exact skipIf_spec (by simp) (by simp)
  · rw [show exec (.skipNotPressed x) s = skipIf (s.keys[k] == false) s from skipOnKey_of_key false hk]
    exact skipIf_spec (by simp) (by simp)

end Sys2Proof.Machine
end

section
/-! PROOFS. Load, arithmetic, bitwise, shift, random, index, timers and the key wait (spec files 42, 43, 45): the state each
instruction leaves, its frame, and its words. -/

namespace Sys2Proof.Machine

/-- Settles O29: one register is written, with the byte or the wrapped sum. -/
theorem byteImmediatesWriteTheirRegister : Obligations.ByteImmediatesWriteTheirRegister := fun x nn s =>
  ⟨⟨_, rfl, s.setV_V_self x nn, s.setV_regsSameBut x _, s.setV_sameBut x _⟩,
    ⟨_, rfl, by rw [State.setV_V_self, BitVec.toNat_add]; rfl, s.setV_regsSameBut x _, s.setV_sameBut x _⟩,
    fun _ => decodeWord_setByte, fun _ => decodeWord_addByte⟩

/-- Settles O30: one register is written, each bit by the operation on the operands' bits. -/
theorem bitwiseOperationsWriteTheirRegister : Obligations.BitwiseOperationsWriteTheirRegister := by
  intro x y s
  refine ⟨⟨_, rfl, s.setV_V_self x _, s.setV_regsSameBut x _, s.setV_sameBut x _⟩,
    ⟨_, rfl, fun b => ?_, s.setV_regsSameBut x _, s.setV_sameBut x _⟩,
    ⟨_, rfl, fun b => ?_, s.setV_regsSameBut x _, s.setV_sameBut x _⟩,
    ⟨_, rfl, fun b => ?_, s.setV_regsSameBut x _, s.setV_sameBut x _⟩,
    fun w hf => ⟨decodeWord_setReg hf, decodeWord_or hf, decodeWord_and hf, decodeWord_xor hf⟩⟩
  · rw [State.setV_V_self]; exact BitVec.getElem_or b.isLt
  · rw [State.setV_V_self]; exact BitVec.getElem_and b.isLt
  · rw [State.setV_V_self]; exact BitVec.getElem_xor b.isLt

/-- Settles O31: the sum, then the carry. -/
theorem addWrapsAndFlagsTheCarry : Obligations.AddWrapsAndFlagsTheCarry := fun x y s =>
  ⟨⟨_, rfl, fun hx => by rw [State.resultThenFlag_V_result _ hx, BitVec.toNat_add]; rfl,
    (s.resultThenFlag_V_flag x _ _).trans (addFlag_eq _ _), s.resultThenFlag_regsSameBut x _ _,
    s.resultThenFlag_sameBut x _ _⟩, fun _ => decodeWord_add⟩

/-- The wrapped difference of two bytes as a number. -/
theorem toNat_byte_sub (a b : Byte) : (a - b).toNat = (a.toNat + 256 - b.toNat) % 256 := by
  rw [BitVec.toNat_sub]; have := b.isLt; omega

/-- A difference written before its flag, whichever operand is the minuend (rules R127, R128, R131). -/
theorem difference_spec (s : State) (x : Reg) (a b : Byte) :
    (x ≠ 15 → (s.resultThenFlag x (a - b) (subFlag a b)).V[x].toNat = (a.toNat + 256 - b.toNat) % 256) ∧
    (s.resultThenFlag x (a - b) (subFlag a b)).V[15] = (if b.toNat < a.toNat then 0x01#8 else 0x00#8) ∧
    RegsSameBut [x, 15] s (s.resultThenFlag x (a - b) (subFlag a b)) ∧
    SameBut [.regs] s (s.resultThenFlag x (a - b) (subFlag a b)) :=
  ⟨fun hx => by rw [State.resultThenFlag_V_result _ hx]; exact toNat_byte_sub a b,
    (s.resultThenFlag_V_flag x _ _).trans (subFlag_eq a b), s.resultThenFlag_regsSameBut x _ _,
    s.resultThenFlag_sameBut x _ _⟩

/-- Settles O32: sub and subn are the difference, with the operands exchanged. -/
theorem subtractWrapsAndFlagsStrictly : Obligations.SubtractWrapsAndFlagsStrictly := fun x y s =>
  ⟨⟨_, rfl, difference_spec s x s.V[x] s.V[y]⟩, ⟨_, rfl, difference_spec s x s.V[y] s.V[x]⟩, fun _ => decodeWord_sub,
    fun _ => decodeWord_subn⟩

/-- Settles O33: the bit shifted out, then the shifted value, which stands for `x = 15`. -/
theorem shiftsMoveOneBitIntoTheFlag : Obligations.ShiftsMoveOneBitIntoTheFlag := by
  intro x s
  refine ⟨⟨_, rfl, ?_, fun hx => ?_, s.flagThenResult_regsSameBut x _ _, s.flagThenResult_sameBut x _ _⟩,
    ⟨_, rfl, ?_, fun hx => ?_, s.flagThenResult_regsSameBut x _ _, s.flagThenResult_sameBut x _ _⟩,
    fun _ => decodeWord_shiftRight, fun _ => decodeWord_shiftLeft⟩
  · rw [State.flagThenResult_V_result, BitVec.toNat_ushiftRight, Nat.shiftRight_eq_div_pow]; rfl
  · rw [State.flagThenResult_V_flag _ hx, toNat_shiftRightFlag]; rfl
  · rw [State.flagThenResult_V_result, BitVec.toNat_shiftLeft, Nat.shiftLeft_eq]; rfl
  · rw [State.flagThenResult_V_flag _ hx, toNat_shiftLeftFlag]; rfl

/-- Settles O34: the free byte AND `nn`, and one more draw counted. -/
theorem randMasksAFreshByte : Obligations.RandMasksAFreshByte := by
  intro x nn s
  have hbit (b : Fin 8) : (s.setV x (Config.rand8 s.draws &&& nn)).V[x][b] = ((Config.rand8 s.draws)[b] && nn[b]) := by
    rw [State.setV_V_self]; exact BitVec.getElem_and b.isLt
  exact ⟨⟨_, rfl, fun b h0 => (hbit b).trans (by rw [h0, Bool.and_false]),
    fun b h1 => (hbit b).trans (by rw [h1, Bool.and_true]), s.setV_regsSameBut x _, rfl,
    ((s.setV_sameBut x _).mono (by decide)).trans ((State.countDraw_sameBut _).mono (by decide))⟩, fun _ => decodeWord_rand⟩

/-- Five times a nibble fits the word (rule R142). -/
theorem toNat_glyphAddr (v : Byte) : (glyphAddr v).toNat = 5 * (v.toNat % 16) := by
  rw [glyphAddr, BitVec.toNat_ofNat]; omega

/-- The wrapped sum of `I` and a byte as a number (rule R141). -/
theorem toNat_add_byteWord (i : Word) (v : Byte) : (i + byteWord v).toNat = (i.toNat + v.toNat) % 65536 := by
  rw [BitVec.toNat_add, byteWord, BitVec.toNat_setWidth_of_le (by omega)]

/-- Settles O35: the three values `I` is set to, as numbers. -/
theorem indexInstructionsSetTheIndex : Obligations.IndexInstructionsSetTheIndex := fun x nnn s =>
  ⟨⟨_, rfl, toNat_addrWord nnn, s.setI_sameBut _⟩, ⟨_, rfl, toNat_add_byteWord s.I s.V[x], s.setI_sameBut _⟩,
    ⟨_, rfl, toNat_glyphAddr s.V[x], s.setI_sameBut _⟩, fun _ => decodeWord_setIndex, fun _ => decodeWord_addIndex,
    fun _ => decodeWord_setChar⟩

/-- Settles O43: three moves of a byte, each with its frame. -/
theorem timerInstructionsMoveTheTimers : Obligations.TimerInstructionsMoveTheTimers := fun x s =>
  ⟨⟨_, rfl, s.setV_V_self x _, s.setV_regsSameBut x _, s.setV_sameBut x _⟩, ⟨_, rfl, rfl, s.setDT_sameBut _⟩,
    ⟨_, rfl, rfl, s.setST_sameBut _⟩, fun _ => decodeWord_getDelay, fun _ => decodeWord_setDelay,
    fun _ => decodeWord_setSound⟩

/-- Settles O44: the wait is set and nothing else. -/
theorem awaitKeySuspends : Obligations.AwaitKeySuspends := fun _ s =>
  ⟨⟨_, rfl, rfl, s.setAwaited_sameBut _⟩, fun _ => decodeWord_awaitKey⟩

end Sys2Proof.Machine
end

section
/-! PROOFS. draw (spec/44_draw.md) as a list of pixels: the loops flip, one after another, the cells of the sprite's 1 bits. The
sprite has at most 15 rows of 8 columns on a screen of 32 by 64, so wrapping never makes two of its pixels meet: the list has no
duplicates, each listed cell is flipped once, and the flag sees the value the cell had before the draw. -/

namespace Sys2Proof.Machine

/-! ### Flipping a list of cells -/

/-- A cell of the screen, row and column. -/
abbrev ScreenCell := Fin 32 × Fin 64

/-- Flip one cell, and set the flag on its transition (rules R150, R153). -/
def flipCell (d : DrawFlag) (p : Blit) (q : ScreenCell) : Blit :=
  (p.1.setCell q.1 q.2 (!p.1.cell q.1 q.2), p.2 || drawFlagFires d (p.1.cell q.1 q.2))

theorem flipCell_cell (d : DrawFlag) (p : Blit) (q : ScreenCell) (y : Fin 32) (x : Fin 64) :
    (flipCell d p q).1[y][x] = if (y, x) = q then !p.1[y][x] else p.1[y][x] := by
  obtain ⟨qy, qx⟩ := q
  rw [flipCell, getElem_setCell]
  simp only [Prod.mk.injEq]
  split_ifs with h
  · obtain ⟨rfl, rfl⟩ := h; rfl
  · rfl

/-- Flipping each cell of a list without duplicates flips exactly the listed cells. -/
theorem foldl_flipCell_cell (d : DrawFlag) {l : List ScreenCell} (hl : l.Nodup) (p : Blit) (y : Fin 32) (x : Fin 64) :
    (l.foldl (flipCell d) p).1[y][x] = if (y, x) ∈ l then !p.1[y][x] else p.1[y][x] := by
  induction l generalizing p with
  | nil => simp
  | cons q l ih =>
    obtain ⟨hq, hl⟩ := List.nodup_cons.1 hl
    rw [List.foldl_cons, ih hl, flipCell_cell]
    by_cases h : (y, x) = q
    · subst h; simp [hq]
    · simp [h]

/-- The flag is set when it was, or when a listed cell made the transition, each cell being as it was before all flips. -/
theorem foldl_flipCell_flag (d : DrawFlag) {l : List ScreenCell} (hl : l.Nodup) (p : Blit) :
    (l.foldl (flipCell d) p).2 = true ↔ p.2 = true ∨ ∃ q ∈ l, FlagTransition d p.1[q.1][q.2] := by
  induction l generalizing p with
  | nil => simp
  | cons q l ih =>
    obtain ⟨hq, hl⟩ := List.nodup_cons.1 hl
    have hsame (r : ScreenCell) (hr : r ∈ l) : (flipCell d p q).1[r.1][r.2] = p.1[r.1][r.2] :=
      (flipCell_cell d p q r.1 r.2).trans (if_neg (by rintro rfl; exact hq hr))
    have hrest : (∃ r ∈ l, FlagTransition d (flipCell d p q).1[r.1][r.2]) ↔ ∃ r ∈ l, FlagTransition d p.1[r.1][r.2] :=
      exists_congr fun r => and_congr_right fun hr => by rw [hsame r hr]
    rw [List.foldl_cons, ih hl, hrest, List.exists_mem_cons_iff, ← or_assoc]
    refine or_congr_left ?_
    rw [flipCell, Bool.or_eq_true, drawFlagFires_iff]; rfl

/-! ### The pixels of a sprite -/

/-- The cells of one sprite row in row `py` whose bits are 1, left to right. -/
def rowPixels (x0 : Byte) (py : Fin 32) (b : Byte) : List ScreenCell :=
  ((List.range 8).filter (spriteBit b)).map fun c => (py, spriteCol x0 c)

/-- The cells of a sprite's 1 bits, from row `r` on. -/
def spritePixels (x0 y0 : Byte) : Nat → List Byte → List ScreenCell
  | _, [] => []
  | r, b :: bs => rowPixels x0 (spriteRow y0 r) b ++ spritePixels x0 y0 (r + 1) bs

theorem drawRow_eq_foldl (d : DrawFlag) (x0 : Byte) (py : Fin 32) (b : Byte) (p : Blit) :
    drawRow d x0 py b p = (rowPixels x0 py b).foldl (flipCell d) p := by
  rw [rowPixels, List.foldl_map, List.foldl_filter]
  rfl

theorem drawRows_eq_foldl (d : DrawFlag) (x0 y0 : Byte) (r : Nat) (bs : List Byte) (p : Blit) :
    drawRows d x0 y0 r bs p = (spritePixels x0 y0 r bs).foldl (flipCell d) p := by
  induction bs generalizing r p with
  | nil => rfl
  | cons b bs ih => rw [drawRows, ih, drawRow_eq_foldl, spritePixels, List.foldl_append]

theorem mem_rowPixels {x0 : Byte} {py : Fin 32} {b : Byte} {q : ScreenCell} :
    q ∈ rowPixels x0 py b ↔ ∃ c < 8, spriteBit b c = true ∧ (py, spriteCol x0 c) = q := by
  simp [rowPixels, and_assoc]

theorem mem_spritePixels {x0 y0 : Byte} {r : Nat} {bs : List Byte} {q : ScreenCell} :
    q ∈ spritePixels x0 y0 r bs ↔
      ∃ (k : Nat) (hk : k < bs.length), ∃ c < 8, spriteBit bs[k] c = true ∧ (spriteRow y0 (r + k), spriteCol x0 c) = q := by
  induction bs generalizing r with
  | nil => simp [spritePixels]
  | cons b bs ih =>
    have hshift (k : Nat) : r + (k + 1) = r + 1 + k := by omega
    rw [spritePixels, List.mem_append, mem_rowPixels, ih]
    constructor
    · rintro (h | ⟨k, hk, h⟩)
      · exact ⟨0, by simp, h⟩
      · exact ⟨k + 1, by simpa using hk, by simpa only [hshift k, List.getElem_cons_succ] using h⟩
    · rintro ⟨k, hk, h⟩
      cases k with
      | zero => exact .inl h
      | succ k => exact .inr ⟨k, by simpa using hk, by simpa only [hshift k, List.getElem_cons_succ] using h⟩

/-- Columns at most 7 apart do not meet modulo 64. -/
theorem spriteCol_inj {x0 : Byte} {c c' : Nat} (hc : c < 8) (hc' : c' < 8) (h : spriteCol x0 c = spriteCol x0 c') : c = c' := by
  have := congrArg Fin.val h
  simp only [spriteCol, Fin.val_ofNat] at this
  omega

/-- Rows less than 32 apart do not meet modulo 32. -/
theorem spriteRow_ne {y0 : Byte} {r r' : Nat} (hlt : r < r') (hr : r' < r + 32) : spriteRow y0 r ≠ spriteRow y0 r' := by
  intro h
  have := congrArg Fin.val h
  simp only [spriteRow, Fin.val_ofNat] at this
  omega

theorem nodup_rowPixels (x0 : Byte) (py : Fin 32) (b : Byte) : (rowPixels x0 py b).Nodup := by
  refine List.Nodup.map_on (fun c hc c' hc' h => ?_) (List.nodup_range.filter _)
  rw [List.mem_filter, List.mem_range] at hc hc'
  exact spriteCol_inj hc.1 hc'.1 (Prod.mk.inj h).2

theorem nodup_spritePixels (x0 y0 : Byte) (r : Nat) (bs : List Byte) (hlen : bs.length ≤ 32) :
    (spritePixels x0 y0 r bs).Nodup := by
  induction bs generalizing r with
  | nil => exact List.nodup_nil
  | cons b bs ih =>
    rw [List.length_cons] at hlen
    refine (nodup_rowPixels x0 _ b).append (ih (r + 1) (by omega)) fun q hq hq' => ?_
    obtain ⟨c, -, -, rfl⟩ := mem_rowPixels.1 hq
    obtain ⟨k, hk, c', -, -, heq⟩ := mem_spritePixels.1 hq'
    exact spriteRow_ne (by omega) (by omega) (Prod.mk.inj heq).1.symm

/-! ### The instruction -/

variable {s t : State} {x y : Reg}

/-- The cells of the 1 bits of the sprite that draw reads. -/
def State.pixelsDrawn (s : State) (x y : Reg) (n : Nat) : List ScreenCell :=
  spritePixels (s.reg x) (s.reg y) 0 (s.readBytes s.base n)

/-- They are the cells the sprite covers (rules R151, R152). -/
theorem mem_pixelsDrawn {n : Nat} {py : Fin 32} {px : Fin 64} :
    (py, px) ∈ s.pixelsDrawn x y n ↔ SpriteCovers s x y n py px := by
  rw [State.pixelsDrawn, mem_spritePixels]
  simp only [readBytes_length, Nat.zero_add, Prod.mk.injEq, spriteRow, spriteCol, Fin.ext_iff, Fin.val_ofNat]
  constructor
  · rintro ⟨r, hr, c, hc, hbit, hrow, hcol⟩
    rw [readBytes_getElem _ _ _ _ hr] at hbit
    exact ⟨r, c, hr, hc, hrow.symm, hcol.symm, hbit⟩
  · rintro ⟨r, c, hr, hc, hrow, hcol, hbit⟩
    refine ⟨r, hr, c, hc, ?_, hrow.symm, hcol.symm⟩
    rw [readBytes_getElem _ _ _ _ hr]; exact hbit

theorem blit_eq_foldl (n : Nat) :
    s.blit x y n = (s.pixelsDrawn x y n).foldl (flipCell s.cfg.drawFlag) (s.fb, false) := drawRows_eq_foldl _ _ _ _ _ _

theorem nodup_pixelsDrawn (n : Fin 16) : (s.pixelsDrawn x y n.val).Nodup :=
  nodup_spritePixels _ _ _ _ (by rw [readBytes_length]; omega)

/-- The picture: the covered cells are flipped and no others (rule R150). -/
theorem blit_cell (n : Fin 16) (py : Fin 32) (px : Fin 64) :
    (SpriteCovers s x y n.val py px → (s.blit x y n.val).1[py][px] = !s.fb[py][px]) ∧
    (¬ SpriteCovers s x y n.val py px → (s.blit x y n.val).1[py][px] = s.fb[py][px]) := by
  rw [blit_eq_foldl, foldl_flipCell_cell _ (nodup_pixelsDrawn n), ← mem_pixelsDrawn]
  exact ⟨fun h => if_pos h, fun h => if_neg h⟩

/-- The flag: some covered cell makes the transition (rule R153). -/
theorem blit_flag (n : Fin 16) : (s.blit x y n.val).2 = true ↔
    ∃ (py : Fin 32) (px : Fin 64), SpriteCovers s x y n.val py px ∧ FlagTransition s.cfg.drawFlag s.fb[py][px] := by
  rw [blit_eq_foldl, foldl_flipCell_flag _ (nodup_pixelsDrawn n)]
  simp only [Bool.false_eq_true, false_or, Prod.exists, mem_pixelsDrawn]

/-- The state a draw that completes leaves. -/
def State.drawn (s : State) (x y : Reg) (n : Nat) : State :=
  (s.setFb (s.blit x y n).1).setVF (flagByte (s.blit x y n).2)

theorem exec_draw_of_inRange {n : Fin 16} (h : n.val = 0 ∨ s.base + n.val - 1 ≤ 0xFFF) :
    exec (.draw x y n) s = .next (s.drawn x y n.val) := guardRange_of_inRange h

theorem drawn_sameBut (s : State) (x y : Reg) (n : Nat) : SameBut [.screen, .regs] s (s.drawn x y n) :=
  ((s.setFb_sameBut _).mono (by decide)).trans ((State.setV_sameBut _ _ _).mono (by decide))

theorem drawn_regsSameBut (s : State) (x y : Reg) (n : Nat) : RegsSameBut [15] s (s.drawn x y n) :=
  State.setV_regsSameBut _ Reg.VF _

theorem drawn_VF (s : State) (x y : Reg) (n : Nat) : (s.drawn x y n).V[15] = flagByte (s.blit x y n).2 :=
  State.setVF_V_VF _ _

/-- Settles O40: the picture and the flag of the pixel list, and the frame of the two writes. -/
theorem drawFlipsTheCoveredCells : Obligations.DrawFlipsTheCoveredCells := by
  intro x y n s hr
  refine ⟨_, exec_draw_of_inRange hr, blit_cell n, fun hflag => ?_, fun hflag => ?_, drawn_regsSameBut s x y n.val,
    drawn_sameBut s x y n.val⟩
  · rw [drawn_VF, (blit_flag n).2 hflag]; rfl
  · rw [drawn_VF, Bool.eq_false_iff.2 fun h => hflag ((blit_flag n).1 h)]; rfl

/-- The cells covered depend on the two coordinates, `I` and memory only. -/
theorem spriteCovers_congr {n : Nat} {py : Fin 32} {px : Fin 64} (hx : t.V[x] = s.V[x]) (hy : t.V[y] = s.V[y])
    (hI : t.I = s.I) (hmem : ∀ a, t.byteAt a = s.byteAt a) :
    SpriteCovers t x y n py px ↔ SpriteCovers s x y n py px := by
  simp only [SpriteCovers, State.base, hx, hy, hI, hmem]

/-- Settles O41: the second draw covers the cells of the first, and flips them back. -/
theorem drawTwiceRestoresTheScreen : Obligations.DrawTwiceRestoresTheScreen := by
  intro x y n s t h hx hy
  obtain ⟨hr, rfl⟩ := eq_of_guardRange_next h
  have hframe := drawn_sameBut s x y n.val
  have hI : (s.drawn x y n.val).I = s.I := hframe .index (by simp)
  have hcovers (py : Fin 32) (px : Fin 64) :
      SpriteCovers (s.drawn x y n.val) x y n.val py px ↔ SpriteCovers s x y n.val py px :=
    spriteCovers_congr hx hy hI (hframe .mem (by simp))
  refine ⟨_, exec_draw_of_inRange (s := s.drawn x y n.val) (by rw [State.base, hI]; exact hr), fun py px => ?_⟩
  obtain ⟨hflip, hkeep⟩ := blit_cell (s := s) (x := x) (y := y) n py px
  obtain ⟨hflip', hkeep'⟩ := blit_cell (s := s.drawn x y n.val) (x := x) (y := y) n py px
  rw [hcovers] at hflip' hkeep'
  by_cases hc : SpriteCovers s x y n.val py px
  · calc _ = !(s.drawn x y n.val).fb[py][px] := hflip' hc
      _ = !!s.fb[py][px] := congrArg _ (hflip hc)
      _ = s.fb[py][px] := Bool.not_not _
  · exact (hkeep' hc).trans (hkeep hc)

/-- Settles O42: the bounds check, and the sprite of no rows. -/
theorem drawAtTheEdgeOfMemory : Obligations.DrawAtTheEdgeOfMemory := by
  intro x y n s
  refine ⟨fun hn hr => guardRange_of_outside hn hr, ?_, fun _ => decodeWord_draw⟩
  exact ⟨s.setVF 0x00#8, exec_draw_of_inRange (.inl rfl), s.setVF_V_VF _, s.setV_regsSameBut Reg.VF _,
    s.setV_sameBut Reg.VF _⟩

end Sys2Proof.Machine
end

section
/-! PROOFS. The step wrapper (rule R208). Its slices run with the accumulated time and the schedule of the call in the state, the
slices of the statement without; so first: no meaning looks at either field, and every outcome carries them through. -/

namespace Sys2Proof.Machine

variable {s t : State}

/-- The state with the host's two fields replaced: the accumulated time and the events to come. -/
def State.withHost (s : State) (a : Rat) (q : List Event) : State := { s with clockAcc := a, schedule := q }

/-- The outcome with its state, next or faulted, changed by `h`. -/
def mapOutcome (h : State → State) : Result → Result
  | .next s => .next (h s)
  | .fault f => .fault (f.mapAfter h)
  | .refused r => .refused r

section
variable (a : Rat) (q : List Event)

theorem writeBytes_withHost (s : State) (b : Nat) (bs : List Byte) :
    (s.withHost a q).writeBytes b bs = (s.writeBytes b bs).withHost a q := by
  induction bs generalizing s b with
  | nil => rfl
  | cons v bs ih => exact ih (s.writeByte b v) (b + 1)

theorem loadRegs_withHost (s : State) (ks : List Reg) : (s.withHost a q).loadRegs ks = (s.loadRegs ks).withHost a q := by
  induction ks generalizing s with
  | nil => rfl
  | cons k ks ih => exact ih (s.setV k (s.byteAt (s.base + k.val)))

theorem readBytes_withHost (s : State) (b n : Nat) : (s.withHost a q).readBytes b n = s.readBytes b n := by
  induction n generalizing b with
  | zero => rfl
  | succ n ih => exact congrArg (s.byteAt b :: ·) (ih (b + 1))

theorem blit_withHost (s : State) (x y : Reg) (n : Nat) : (s.withHost a q).blit x y n = s.blit x y n :=
  congrArg (drawRows s.cfg.drawFlag (s.reg x) (s.reg y) 0 · (s.fb, false)) (readBytes_withHost a q s s.base n)

theorem guardRange_withHost {k : Access} {first : Word} {n : Nat} {s u v : State} (hv : v = u.withHost a q) :
    guardRange k first n (s.withHost a q) v = mapOutcome (·.withHost a q) (guardRange k first n s u) := by
  unfold guardRange
  split
  · rw [hv]; rfl
  · rfl

theorem skipIf_withHost (c : Bool) (s : State) : skipIf c (s.withHost a q) = mapOutcome (·.withHost a q) (skipIf c s) := by
  cases c <;> rfl

theorem skipOnKey_withHost (x : Reg) (wanted : Bool) (s : State) :
    skipOnKey x wanted (s.withHost a q) = mapOutcome (·.withHost a q) (skipOnKey x wanted s) := by
  rcases skipOnKey_cases x wanted s with ⟨k, hk, hs⟩ | ⟨hlarge, hs⟩
  · rw [hs, skipOnKey_of_key (s := s.withHost a q) wanted hk]; exact skipIf_withHost a q _ s
  · rw [hs, skipOnKey_of_large (s := s.withHost a q) wanted hlarge]; rfl

/-- No instruction looks at the host's two fields. -/
theorem exec_withHost (i : Instr) (s : State) :
    exec i (s.withHost a q) = mapOutcome (·.withHost a q) (exec i s) := by
  cases i
  case ret =>
    by_cases hs : 0 < s.sp.val
    · rw [exec_ret_of_pos hs, exec_ret_of_pos (s := s.withHost a q) hs]; rfl
    · have h0 : s.sp.val = 0 := by omega
      rw [exec_ret_of_zero h0, exec_ret_of_zero (s := s.withHost a q) h0]; rfl
  case call nnn =>
    by_cases hs : s.sp.val < 16
    · rw [exec_call_of_lt nnn hs, exec_call_of_lt (s := s.withHost a q) nnn hs]; rfl
    · rw [exec_call_of_full nnn hs, exec_call_of_full (s := s.withHost a q) nnn hs]; rfl
  case skipEqByte | skipNeqByte | skipEq | skipNeq => exact skipIf_withHost a q _ s
  case skipPressed x | skipNotPressed x => exact skipOnKey_withHost a q x _ s
  case storeBcd | storeRegs => exact guardRange_withHost a q (writeBytes_withHost a q s _ _)
  case loadRegs => exact guardRange_withHost a q (loadRegs_withHost a q s _)
  case draw x y n => exact guardRange_withHost a q (by rw [blit_withHost]; rfl)
  all_goals rfl

theorem beginSlice_withHost (s : State) : (s.withHost a q).beginSlice = s.beginSlice.withHost a q := by
  by_cases h : s.cfg.clockHz < s.tickAcc + 60
  · rw [State.beginSlice, State.beginSlice, tickCheck_of_exceeds h, tickCheck_of_exceeds (s := s.withHost a q) h]; rfl
  · rw [State.beginSlice, State.beginSlice, tickCheck_of_within (Nat.le_of_not_lt h),
      tickCheck_of_within (s := s.withHost a q) (Nat.le_of_not_lt h)]; rfl

theorem cycle_withHost (s : State) : (s.withHost a q).cycle = mapOutcome (·.withHost a q) s.cycle := by
  rcases cycle_cases s with ⟨hpc, hc⟩ | ⟨hpc, e, hd, hc⟩ | ⟨hpc, i, hd, hc⟩
  · rw [hc, cycle_of_outside (s := s.withHost a q) hpc]; rfl
  · rw [hc, cycle_of_undecodable (s := s.withHost a q) hpc hd]; rfl
  · rw [hc, cycle_of_decode (s := s.withHost a q) hpc hd]; exact exec_withHost a q i s.advancePc

theorem slice_withHost (s : State) : (s.withHost a q).slice = mapOutcome (·.withHost a q) s.slice := by
  rcases slice_cases s with ⟨r, ha, hs⟩ | ⟨ha, hs⟩
  · rw [hs, slice_of_awaited (s := s.withHost a q) ha, beginSlice_withHost]; rfl
  · rw [hs, slice_of_ready (s := s.withHost a q) ha, beginSlice_withHost, cycle_withHost]

end

/-! ### The loop -/

variable {a : Rat} {q : List Event}

/-- A period that is there is consumed by a slice that completes. -/
theorem drain_succ_of_next (n : Nat) (ha : 1 / (s.cfg.clockHz : Rat) ≤ a) (h : s.slice = .next t) :
    drain (n + 1) (s.withHost a q) = drain n (t.withHost (a - 1 / s.cfg.clockHz) q) := by
  have hslice : (s.withHost a q).consumePeriod.slice = .next (t.withHost (a - 1 / s.cfg.clockHz) q) := by
    change (s.withHost (a - 1 / s.cfg.clockHz) q).slice = _
    rw [slice_withHost, h]; rfl
  rw [drain, if_pos (by exact ha), hslice]

/-- A period that is there is consumed by a slice that faults, and the loop ends. -/
theorem drain_succ_of_fault (n : Nat) {f : Fault} (ha : 1 / (s.cfg.clockHz : Rat) ≤ a) (h : s.slice = .fault f) :
    drain (n + 1) (s.withHost a q) = .fault (f.mapAfter (·.withHost (a - 1 / s.cfg.clockHz) q)) := by
  have hslice : (s.withHost a q).consumePeriod.slice = .fault (f.mapAfter (·.withHost (a - 1 / s.cfg.clockHz) q)) := by
    change (s.withHost (a - 1 / s.cfg.clockHz) q).slice = _
    rw [slice_withHost, h]; rfl
  rw [drain, if_pos (by exact ha), hslice]

/-- With nothing scheduled a step is a slice. -/
theorem step_of_nil (h : s.schedule = []) : step s = s.slice := by
  rw [step_of_sliceNext (.inl h), takeEvent_of_nil h]

/-- No slice writes the parameters or the schedule. -/
theorem slice_keeps_cfg_schedule (h : s.slice = .next t) : t.cfg = s.cfg ∧ t.schedule = s.schedule := by
  refine (slice_leaves (P := fun t => t.cfg = s.cfg ∧ t.schedule = s.schedule) ⟨by simp, by simp⟩
    (fun _ => ⟨by simp, by simp⟩) fun i t _ ht => ?_).1 t h
  obtain ⟨-, -, hcfg, -, hsched⟩ := exec_keeps_clocks ht
  exact ⟨by rw [hcfg]; simp, by rw [hsched]; simp⟩

/-- A run of `m + 1` steps that completes is a step that completes, then a run of `m`. -/
theorem run_succ_next {m : Nat} (h : Sys2Proof.core.run (m + 1) s = .next t) :
    ∃ u, step s = .next u ∧ Sys2Proof.core.run m u = .next t := by
  cases hs : step s with
  | next u => exact ⟨u, rfl, (run_succ_of_next m hs).symm.trans h⟩
  | fault f =>
    have hstep : Sys2Proof.core.step s = .fault f := hs
    simp only [Host.Core.run, hstep] at h; cases h
  | refused r =>
    have hstep : Sys2Proof.core.step s = .refused r := hs
    simp only [Host.Core.run, hstep] at h; cases h

/-- `m` slices that complete take the loop `m` times round, and `m` periods of the time. -/
theorem drain_of_run {m : Nat} (k : Nat) (hs : s.schedule = []) (ha : (m : Rat) / s.cfg.clockHz ≤ a)
    (h : Sys2Proof.core.run m s = .next t) :
    drain (m + k) (s.withHost a q) = drain k (t.withHost (a - m / s.cfg.clockHz) q) ∧ t.cfg = s.cfg ∧ t.schedule = [] := by
  induction m generalizing s a with
  | zero =>
    obtain rfl := eq_of_next h
    simp [hs]
  | succ m ih =>
    obtain ⟨u, hstep, hrun⟩ := run_succ_next h
    rw [step_of_nil hs] at hstep
    obtain ⟨hcfg, hsched⟩ := slice_keeps_cfg_schedule hstep
    rw [Nat.cast_succ, add_div] at ha ⊢
    have hm : (0 : Rat) ≤ m / s.cfg.clockHz := by positivity
    obtain ⟨hdrain, htcfg, htsched⟩ := ih (s := u) (a := a - 1 / s.cfg.clockHz) (hsched.trans hs) (by rw [hcfg]; linarith) hrun
    refine ⟨?_, htcfg.trans hcfg, htsched⟩
    rw [show m + 1 + k = m + k + 1 by omega, drain_succ_of_next _ (by linarith) hstep, hdrain, hcfg]
    congr 2; ring

/-- `n` periods fit and `n + 1` do not. -/
theorem wholePeriods_eq {seconds : Rat} {hz n : Nat} (hle : (n : Rat) ≤ seconds * hz) (hlt : seconds * hz < n + 1) :
    wholePeriods seconds hz = n := by
  have hfloor : ⌊seconds * hz⌋ = (n : Int) := Int.floor_eq_iff.2 ⟨by exact_mod_cast hle, by exact_mod_cast hlt⟩
  exact congrArg Int.toNat hfloor

/-- The call is the loop, on the state without the call's event and with its time added. -/
theorem step_of_elapse {e : Rat} {rest : List Event} {n : Nat} (hs : s.schedule = .elapse e :: rest) (he : 0 ≤ e)
    (hn : wholePeriods (s.clockAcc + e) s.cfg.clockHz = n) :
    step s = drain n (State.withHost { s with schedule := [] } (s.clockAcc + e) rest) := by
  obtain ⟨hstep, hrest⟩ := step_of_event hs
  rw [hstep, deliver, State.elapse, if_neg (not_lt.2 he), ← hrest, ← hn]
  rfl

/-- Settles O50: the call is the loop, which the completing slices take round, and which the faulting one ends. -/
theorem elapseRunsTheWholePeriods : Obligations.ElapseRunsTheWholePeriods := by
  intro e n s rest hs hv he _ hle hlt
  have hz : (0 : Rat) < s.cfg.clockHz := by
    have := clockHz_of_valid hv
    exact_mod_cast (by omega : 0 < s.cfg.clockHz)
  have hstep := step_of_elapse hs he (wholePeriods_eq hle hlt)
  refine ⟨fun u hrun => ?_, fun m t f hm hrun hf => ?_⟩
  · rw [hstep]
    exact (drain_of_run (s := { s with schedule := [] }) 0 rfl ((div_le_iff₀ hz).2 hle) hrun).1
  · have hm' : ((m + 1 : Nat) : Rat) ≤ n := by exact_mod_cast hm
    have hall : ((m + 1 : Nat) : Rat) / s.cfg.clockHz ≤ s.clockAcc + e := (div_le_iff₀ hz).2 (hm'.trans hle)
    rw [Nat.cast_succ, add_div] at hall ⊢
    have hper : (0 : Rat) ≤ 1 / s.cfg.clockHz := by positivity
    obtain ⟨hdrain, hcfg, hsched⟩ := drain_of_run (s := { s with schedule := [] }) (a := s.clockAcc + e)
      (q := rest) (n - m) rfl (by linarith) hrun
    rw [step_of_nil hsched] at hf
    rw [hstep, show n = m + (n - m) by omega, hdrain, show n - m = n - m - 1 + 1 by omega,
      drain_succ_of_fault _ (by rw [hcfg]; linarith) hf, hcfg, sub_sub]
    rfl

end Sys2Proof.Machine
end
